-- ==== Sys2Proof/Word.lean ====
section
/-! DEFINITION. The value types of chip-8_cpu_core (spec/00_scope.md R9): u8, u12 and u16 values and the
numbers that name registers. Every value is unsigned. -/

namespace Sys2Proof

/-- u8: a register, a memory cell, the immediate `nn` (00 R9). -/
abbrev Byte := BitVec 8

/-- u16: an opcode, the pc, I, a call-stack entry (00 R9). -/
abbrev Word := BitVec 16

/-- u12: the address field `nnn` (00 R9, 30 R84). -/
abbrev Addr12 := BitVec 12

/-- A register number 0–15 naming `V[x]` (30 R84). -/
abbrev Reg := Fin 16

/-- The number of VF, `V[15]` (10 R21). -/
def vF : Reg := 15

end Sys2Proof
end

