-- ==== Sys2Proof/Syntax.lean ====
section
/-! DEFINITION. The 34 instruction forms of spec/opcode_table.json, one constructor per row, in the table's order
(spec/30_encoding.md R86). Each is named by its conventional mnemonic, which carries no meaning of its own (30 R95).
The operand types are exactly the encoding's fields (30 R84): a register number, u8 `nn`, u12 `nnn`, u4 `n`. -/

namespace Sys2Proof

inductive Instr where
  /-- 00E0, CLS (43 R170) -/
  | cls
  /-- 00EE, RET (40 R100) -/
  | ret
  /-- 1NNN, JP addr (40 R101) -/
  | jp (nnn : Addr12)
  /-- 2NNN, CALL addr (40 R102) -/
  | call (nnn : Addr12)
  /-- 3XNN, SE Vx, byte (40 R103) -/
  | seByte (x : Reg) (nn : Byte)
  /-- 4XNN, SNE Vx, byte (40 R104) -/
  | sneByte (x : Reg) (nn : Byte)
  /-- 5XY0, SE Vx, Vy (40 R105) -/
  | seReg (x y : Reg)
  /-- 6XNN, LD Vx, byte (41 R121) -/
  | ldByte (x : Reg) (nn : Byte)
  /-- 7XNN, ADD Vx, byte (41 R122) -/
  | addByte (x : Reg) (nn : Byte)
  /-- 8XY0, LD Vx, Vy (41 R123) -/
  | ldReg (x y : Reg)
  /-- 8XY1, OR Vx, Vy (41 R124) -/
  | orReg (x y : Reg)
  /-- 8XY2, AND Vx, Vy (41 R125) -/
  | andReg (x y : Reg)
  /-- 8XY3, XOR Vx, Vy (41 R126) -/
  | xorReg (x y : Reg)
  /-- 8XY4, ADD Vx, Vy (41 R127) -/
  | addReg (x y : Reg)
  /-- 8XY5, SUB Vx, Vy (41 R128) -/
  | subReg (x y : Reg)
  /-- 8XY6, SHR Vx (41 R129). `y` is a field of the word that the instruction ignores (30 R89, D25); it is kept so
  that each word has one term. -/
  | shr (x y : Reg)
  /-- 8XY7, SUBN Vx, Vy (41 R130) -/
  | subnReg (x y : Reg)
  /-- 8XYE, SHL Vx (41 R131). `y` is ignored, as in `shr`. -/
  | shl (x y : Reg)
  /-- 9XY0, SNE Vx, Vy (40 R106) -/
  | sneReg (x y : Reg)
  /-- ANNN, LD I, addr (42 R150) -/
  | ldI (nnn : Addr12)
  /-- BNNN, JP V0, addr (40 R107) -/
  | jpV0 (nnn : Addr12)
  /-- CXNN, RND Vx, byte (41 R132) -/
  | rnd (x : Reg) (nn : Byte)
  /-- DXYN, DRW Vx, Vy, n (43 R171) -/
  | drw (x y : Reg) (n : BitVec 4)
  /-- EX9E, SKP Vx (44 R190) -/
  | skp (x : Reg)
  /-- EXA1, SKNP Vx (44 R191) -/
  | sknp (x : Reg)
  /-- FX07, LD Vx, DT (44 R192) -/
  | ldVxDT (x : Reg)
  /-- FX0A, LD Vx, K (44 R193) -/
  | ldVxK (x : Reg)
  /-- FX15, LD DT, Vx (44 R194) -/
  | ldDTVx (x : Reg)
  /-- FX18, LD ST, Vx (44 R195) -/
  | ldSTVx (x : Reg)
  /-- FX1E, ADD I, Vx (42 R151) -/
  | addIVx (x : Reg)
  /-- FX29, LD F, Vx (42 R152) -/
  | ldFVx (x : Reg)
  /-- FX33, LD B, Vx (42 R153) -/
  | ldBVx (x : Reg)
  /-- FX55, LD [I], Vx (42 R154) -/
  | stRegs (x : Reg)
  /-- FX65, LD Vx, [I] (42 R155) -/
  | ldRegs (x : Reg)
  deriving DecidableEq, Repr

end Sys2Proof
end

