-- ==== Sys2Proof/WellFormed.lean ====
section
/-! DEFINITION. The opcode map of spec/30_encoding.md R86 as data (one mask and match per form), which words and which
instructions it admits. Decode.lean is written from the nested match of R86 instead, so that the two can be compared. -/

namespace Sys2Proof

/-- One row of the opcode map: a word `w` is of the form when `w &&& mask = pattern` (30 R86). -/
structure OpRow where
  mask    : Word
  pattern : Word
  deriving DecidableEq, Repr

/-- A word matches a row (30 R86: "match" is the value of `opcode & mask`). -/
def OpRow.matches (r : OpRow) (w : Word) : Bool := w &&& r.mask == r.pattern

/-- The 34 rows of 30 R86, in the table's order. -/
def opcodeRows : List OpRow :=
  [
   ⟨0xFFFF#16, 0x00E0#16⟩,
   ⟨0xFFFF#16, 0x00EE#16⟩,
   ⟨0xF000#16, 0x1000#16⟩,
   ⟨0xF000#16, 0x2000#16⟩,
   ⟨0xF000#16, 0x3000#16⟩,
   ⟨0xF000#16, 0x4000#16⟩,
   ⟨0xF00F#16, 0x5000#16⟩,
   ⟨0xF000#16, 0x6000#16⟩,
   ⟨0xF000#16, 0x7000#16⟩,
   ⟨0xF00F#16, 0x8000#16⟩,
   ⟨0xF00F#16, 0x8001#16⟩,
   ⟨0xF00F#16, 0x8002#16⟩,
   ⟨0xF00F#16, 0x8003#16⟩,
   ⟨0xF00F#16, 0x8004#16⟩,
   ⟨0xF00F#16, 0x8005#16⟩,
   ⟨0xF00F#16, 0x8006#16⟩,
   ⟨0xF00F#16, 0x8007#16⟩,
   ⟨0xF00F#16, 0x800E#16⟩,
   ⟨0xF00F#16, 0x9000#16⟩,
   ⟨0xF000#16, 0xA000#16⟩,
   ⟨0xF000#16, 0xB000#16⟩,
   ⟨0xF000#16, 0xC000#16⟩,
   ⟨0xF000#16, 0xD000#16⟩,
   ⟨0xF0FF#16, 0xE09E#16⟩,
   ⟨0xF0FF#16, 0xE0A1#16⟩,
   ⟨0xF0FF#16, 0xF007#16⟩,
   ⟨0xF0FF#16, 0xF00A#16⟩,
   ⟨0xF0FF#16, 0xF015#16⟩,
   ⟨0xF0FF#16, 0xF018#16⟩,
   ⟨0xF0FF#16, 0xF01E#16⟩,
   ⟨0xF0FF#16, 0xF029#16⟩,
   ⟨0xF0FF#16, 0xF033#16⟩,
   ⟨0xF0FF#16, 0xF055#16⟩,
   ⟨0xF0FF#16, 0xF065#16⟩]

/-- The row of each form (30 R86). -/
def Instr.row : Instr → OpRow
  | .cls => ⟨0xFFFF#16, 0x00E0#16⟩ -- 00E0
  | .ret => ⟨0xFFFF#16, 0x00EE#16⟩ -- 00EE
  | .jp _ => ⟨0xF000#16, 0x1000#16⟩ -- 1NNN
  | .call _ => ⟨0xF000#16, 0x2000#16⟩ -- 2NNN
  | .seByte _ _ => ⟨0xF000#16, 0x3000#16⟩ -- 3XNN
  | .sneByte _ _ => ⟨0xF000#16, 0x4000#16⟩ -- 4XNN
  | .seReg _ _ => ⟨0xF00F#16, 0x5000#16⟩ -- 5XY0
  | .ldByte _ _ => ⟨0xF000#16, 0x6000#16⟩ -- 6XNN
  | .addByte _ _ => ⟨0xF000#16, 0x7000#16⟩ -- 7XNN
  | .ldReg _ _ => ⟨0xF00F#16, 0x8000#16⟩ -- 8XY0
  | .orReg _ _ => ⟨0xF00F#16, 0x8001#16⟩ -- 8XY1
  | .andReg _ _ => ⟨0xF00F#16, 0x8002#16⟩ -- 8XY2
  | .xorReg _ _ => ⟨0xF00F#16, 0x8003#16⟩ -- 8XY3
  | .addReg _ _ => ⟨0xF00F#16, 0x8004#16⟩ -- 8XY4
  | .subReg _ _ => ⟨0xF00F#16, 0x8005#16⟩ -- 8XY5
  | .shr _ _ => ⟨0xF00F#16, 0x8006#16⟩ -- 8XY6
  | .subnReg _ _ => ⟨0xF00F#16, 0x8007#16⟩ -- 8XY7
  | .shl _ _ => ⟨0xF00F#16, 0x800E#16⟩ -- 8XYE
  | .sneReg _ _ => ⟨0xF00F#16, 0x9000#16⟩ -- 9XY0
  | .ldI _ => ⟨0xF000#16, 0xA000#16⟩ -- ANNN
  | .jpV0 _ => ⟨0xF000#16, 0xB000#16⟩ -- BNNN
  | .rnd _ _ => ⟨0xF000#16, 0xC000#16⟩ -- CXNN
  | .drw _ _ _ => ⟨0xF000#16, 0xD000#16⟩ -- DXYN
  | .skp _ => ⟨0xF0FF#16, 0xE09E#16⟩ -- EX9E
  | .sknp _ => ⟨0xF0FF#16, 0xE0A1#16⟩ -- EXA1
  | .ldVxDT _ => ⟨0xF0FF#16, 0xF007#16⟩ -- FX07
  | .ldVxK _ => ⟨0xF0FF#16, 0xF00A#16⟩ -- FX0A
  | .ldDTVx _ => ⟨0xF0FF#16, 0xF015#16⟩ -- FX15
  | .ldSTVx _ => ⟨0xF0FF#16, 0xF018#16⟩ -- FX18
  | .addIVx _ => ⟨0xF0FF#16, 0xF01E#16⟩ -- FX1E
  | .ldFVx _ => ⟨0xF0FF#16, 0xF029#16⟩ -- FX29
  | .ldBVx _ => ⟨0xF0FF#16, 0xF033#16⟩ -- FX33
  | .stRegs _ => ⟨0xF0FF#16, 0xF055#16⟩ -- FX55
  | .ldRegs _ => ⟨0xF0FF#16, 0xF065#16⟩ -- FX65

/-- A word names an instruction: some row of the map matches it. Every other word is unrecognized (30 R88). -/
def recognized (w : Word) : Bool := opcodeRows.any (·.matches w)

/-- A form is well formed when its row is one of the map's 34. The operands need no check of their own: each operand
type holds exactly the values of its field (30 R84), and every value of every field names an operand (30 R88, R89). -/
def Instr.WellFormed (i : Instr) : Bool := opcodeRows.contains i.row

end Sys2Proof
end

