-- ==== Sys2Proof/Decode.lean ====
section
/-! DEFINITION. The instruction decoder and encoder (spec/30_encoding.md R83–R89). A word is 16 bits, big-endian in
memory (20 R65); no word has two meanings and none falls through to a neighbour (30 R87). -/

namespace Sys2Proof

/-- Why bytes are no instruction. -/
inductive DecodeReject where
  /-- the word matches no row of the opcode map: the form `Unknown` (30 R88) -/
  | unknownOpcode (opcode : Word)
  /-- fewer than two bytes were given; a fetch always gives two (30 R81), so no step meets it -/
  | tooShort
  deriving DecidableEq, Repr

/-! ### Fields (30 R84) -/

def fieldOp  (w : Word) : BitVec 4 := w.extractLsb' 12 4
def fieldX   (w : Word) : Reg      := (w.extractLsb' 8 4).toFin
def fieldY   (w : Word) : Reg      := (w.extractLsb' 4 4).toFin
def fieldN   (w : Word) : BitVec 4 := w.extractLsb' 0 4
def fieldNN  (w : Word) : Byte     := w.extractLsb' 0 8
def fieldNNN (w : Word) : Addr12   := w.extractLsb' 0 12

/-! ### Decoding (30 R86) -/

/-- The forms with top nibble 0: all 16 bits are matched (30 R89). -/
def decode0 (w : Word) : Except DecodeReject Instr :=
  if w = 0x00E0#16 then .ok .cls
  else if w = 0x00EE#16 then .ok .ret
  else .error (.unknownOpcode w)

/-- The forms with top nibble 8: bits 3:0 choose (30 R89). -/
def decode8 (w : Word) : Except DecodeReject Instr :=
  let x := fieldX w
  let y := fieldY w
  match fieldN w with
  | 0x0#4 => .ok (.ldReg x y)
  | 0x1#4 => .ok (.orReg x y)
  | 0x2#4 => .ok (.andReg x y)
  | 0x3#4 => .ok (.xorReg x y)
  | 0x4#4 => .ok (.addReg x y)
  | 0x5#4 => .ok (.subReg x y)
  | 0x6#4 => .ok (.shr x y)
  | 0x7#4 => .ok (.subnReg x y)
  | 0xE#4 => .ok (.shl x y)
  | _     => .error (.unknownOpcode w)

/-- The forms with top nibble E: bits 7:0 choose (30 R89). -/
def decodeE (w : Word) : Except DecodeReject Instr :=
  let x := fieldX w
  match fieldNN w with
  | 0x9E#8 => .ok (.skp x)
  | 0xA1#8 => .ok (.sknp x)
  | _      => .error (.unknownOpcode w)

/-- The forms with top nibble F: bits 7:0 choose (30 R89). -/
def decodeF (w : Word) : Except DecodeReject Instr :=
  let x := fieldX w
  match fieldNN w with
  | 0x07#8 => .ok (.ldVxDT x)
  | 0x0A#8 => .ok (.ldVxK x)
  | 0x15#8 => .ok (.ldDTVx x)
  | 0x18#8 => .ok (.ldSTVx x)
  | 0x1E#8 => .ok (.addIVx x)
  | 0x29#8 => .ok (.ldFVx x)
  | 0x33#8 => .ok (.ldBVx x)
  | 0x55#8 => .ok (.stRegs x)
  | 0x65#8 => .ok (.ldRegs x)
  | _      => .error (.unknownOpcode w)

/-- 5XY0 and 9XY0: bits 3:0 must be 0 (30 R88, R89). -/
def decodeXY0 (mk : Reg → Reg → Instr) (w : Word) : Except DecodeReject Instr :=
  if fieldN w = 0x0#4 then .ok (mk (fieldX w) (fieldY w)) else .error (.unknownOpcode w)

/-- One opcode to one instruction, or `Unknown` (30 R86, R87, R88). -/
def decodeWord (w : Word) : Except DecodeReject Instr :=
  match fieldOp w with
  | 0x0#4 => decode0 w
  | 0x1#4 => .ok (.jp (fieldNNN w))
  | 0x2#4 => .ok (.call (fieldNNN w))
  | 0x3#4 => .ok (.seByte (fieldX w) (fieldNN w))
  | 0x4#4 => .ok (.sneByte (fieldX w) (fieldNN w))
  | 0x5#4 => decodeXY0 .seReg w
  | 0x6#4 => .ok (.ldByte (fieldX w) (fieldNN w))
  | 0x7#4 => .ok (.addByte (fieldX w) (fieldNN w))
  | 0x8#4 => decode8 w
  | 0x9#4 => decodeXY0 .sneReg w
  | 0xA#4 => .ok (.ldI (fieldNNN w))
  | 0xB#4 => .ok (.jpV0 (fieldNNN w))
  | 0xC#4 => .ok (.rnd (fieldX w) (fieldNN w))
  | 0xD#4 => .ok (.drw (fieldX w) (fieldY w) (fieldN w))
  | 0xE#4 => decodeE w
  | _     => decodeF w

/-- Two bytes make one opcode, the first in bits 15:8 (20 R65, 30 R81). -/
def wordOfBytes (hi lo : Byte) : Word := hi.setWidth 16 <<< 8 ||| lo.setWidth 16

/-- The decoder on bytes as memory holds them: total, and it rejects by name; it answers the bytes left over. -/
def decodeBytes : List Byte → Except DecodeReject (Instr × List Byte)
  | hi :: lo :: rest => (decodeWord (wordOfBytes hi lo)).map (·, rest)
  | _ => .error .tooShort

/-! ### Encoding (30 R85) -/

/-- A register number as its four bits. -/
def regBits (r : Reg) : BitVec 4 := BitVec.ofFin r

/-- Format FA: op, nnn. -/
def encodeA (op : BitVec 4) (nnn : Addr12) : Word := op.setWidth 16 <<< 12 ||| nnn.setWidth 16

/-- Formats FXB and FXF: op, x, an immediate or function byte. -/
def encodeXB (op : BitVec 4) (x : Reg) (nn : Byte) : Word :=
  op.setWidth 16 <<< 12 ||| (regBits x).setWidth 16 <<< 8 ||| nn.setWidth 16

/-- Formats FXY and FXYN: op, x, y, a function nibble or count. -/
def encodeXYN (op : BitVec 4) (x y : Reg) (n : BitVec 4) : Word :=
  op.setWidth 16 <<< 12 ||| (regBits x).setWidth 16 <<< 8 ||| (regBits y).setWidth 16 <<< 4 ||| n.setWidth 16

/-- The word of an instruction, written from the formats of 30 R85 and the matches of 30 R86. -/
def encode : Instr → Word
  | .cls         => 0x00E0#16
  | .ret         => 0x00EE#16
  | .jp nnn      => encodeA 0x1#4 nnn
  | .call nnn    => encodeA 0x2#4 nnn
  | .seByte x nn => encodeXB 0x3#4 x nn
  | .sneByte x nn => encodeXB 0x4#4 x nn
  | .seReg x y   => encodeXYN 0x5#4 x y 0x0#4
  | .ldByte x nn => encodeXB 0x6#4 x nn
  | .addByte x nn => encodeXB 0x7#4 x nn
  | .ldReg x y   => encodeXYN 0x8#4 x y 0x0#4
  | .orReg x y   => encodeXYN 0x8#4 x y 0x1#4
  | .andReg x y  => encodeXYN 0x8#4 x y 0x2#4
  | .xorReg x y  => encodeXYN 0x8#4 x y 0x3#4
  | .addReg x y  => encodeXYN 0x8#4 x y 0x4#4
  | .subReg x y  => encodeXYN 0x8#4 x y 0x5#4
  | .shr x y     => encodeXYN 0x8#4 x y 0x6#4
  | .subnReg x y => encodeXYN 0x8#4 x y 0x7#4
  | .shl x y     => encodeXYN 0x8#4 x y 0xE#4
  | .sneReg x y  => encodeXYN 0x9#4 x y 0x0#4
  | .ldI nnn     => encodeA 0xA#4 nnn
  | .jpV0 nnn    => encodeA 0xB#4 nnn
  | .rnd x nn    => encodeXB 0xC#4 x nn
  | .drw x y n   => encodeXYN 0xD#4 x y n
  | .skp x       => encodeXB 0xE#4 x 0x9E#8
  | .sknp x      => encodeXB 0xE#4 x 0xA1#8
  | .ldVxDT x    => encodeXB 0xF#4 x 0x07#8
  | .ldVxK x     => encodeXB 0xF#4 x 0x0A#8
  | .ldDTVx x    => encodeXB 0xF#4 x 0x15#8
  | .ldSTVx x    => encodeXB 0xF#4 x 0x18#8
  | .addIVx x    => encodeXB 0xF#4 x 0x1E#8
  | .ldFVx x     => encodeXB 0xF#4 x 0x29#8
  | .ldBVx x     => encodeXB 0xF#4 x 0x33#8
  | .stRegs x    => encodeXB 0xF#4 x 0x55#8
  | .ldRegs x    => encodeXB 0xF#4 x 0x65#8

/-- The bytes of an instruction as memory holds them (20 R65). -/
def encodeBytes (i : Instr) : List Byte := [(encode i).extractLsb' 8 8, (encode i).extractLsb' 0 8]

/-! ### The opcode table's numbering -/

/-- The bytes of the 16-bit word `w`, of which the table gives the low `nbits` bits; the bits above are 0. The word
lies in memory high byte first (20 R65). -/
def tableBytes (nbits w : Nat) : List Byte :=
  let v := w % 2 ^ nbits
  [BitVec.ofNat 8 (v / 256), BitVec.ofNat 8 v]

/-- The instruction the decoder reads from the word `w` of the opcode table. -/
def decodeTableWord (nbits w : Nat) : Option Instr :=
  match decodeBytes (tableBytes nbits w) with
  | .ok (i, _) => some i
  | .error _   => none

end Sys2Proof
end

