-- ==== Sys2Proof/Config.lean ====
section
/-! DEFINITION. The parameters the source leaves open (spec/00_scope.md R8). Each is a constant with no body, so
nothing can be proved of its value: a theorem about the model holds for every value of it. -/

namespace Sys2Proof

/-- RAND (00 R8, 41 R132, decision D9): the `k`-th `random_byte()` a run draws, a free value under no law. The
argument is `State.draws`, which CXNN reads and advances, so no two draws of a run are tied together.
DESIGN CHOICE (the form; log entry 1), safe. -/
opaque Config.rand : Nat → Byte

/-- FONTSET (00 R8, 70 R252, decision D16): the 80 bytes `reset` writes to 0x000–0x04F, a parameter.
DESIGN CHOICE (left open; log entry 3), safe. -/
opaque Config.fontset : Vector Byte 80

end Sys2Proof
end

