-- ==== Sys2Proof/Machine/State.lean ====
section
/-! DEFINITION. The architectural state of spec/10_state.md (summary R41), as plain data, and the state after reset
(70 R250). Two fields are the model's own, `schedule` and `draws` (log entries 2 and 1). -/

namespace Sys2Proof.Machine

/-- Why a step of the model stops with no next state. There is no such reason: the spec describes what every fatal
condition does to the state (60 R212: the record is written and the core halts), so each is a next state, and a halted
core's step is a next state too (60 R214). Nobody raises a fault, which is safe (log entry 5). -/
inductive Fault where
  deriving DecidableEq, Repr

/-- Why the model gives an instruction no meaning. -/
inductive Refusal where
  /-- raised by an arm of `exec` whose instruction has no meaning yet, under its mnemonic of spec/opcode_table.json;
  safe (the run stops). No arm raises it: every instruction has its meaning. -/
  | notModelled (mnemonic : String)
  deriving DecidableEq, Repr

/-- The conditions of 60 R210. -/
inductive Condition where
  | stackOverflow
  | stackUnderflow
  | memoryOutOfRange
  | pcMisaligned
  | keyOutOfRange
  | romTooLarge
  | unknownOpcode
  deriving DecidableEq, Repr

/-- The `info` of a fault record (60 R213). -/
inductive FaultInfo where
  | none
  /-- the out-of-range address, an integer that is never wrapped (20 R62) -/
  | address (a : Nat)
  /-- the key value V[x] -/
  | key (v : Byte)
  deriving DecidableEq, Repr

/-- The fault record (10 R37, 60 R213). -/
structure FaultRecord where
  /-- which condition; its number is `Condition.code` -/
  code   : Condition
  /-- the address of the faulting instruction -/
  pc     : Word
  /-- the opcode, or none when the fault is raised at fetch -/
  opcode : Option Word
  info   : FaultInfo
  deriving DecidableEq, Repr

/-- The host's transactions (70 R262). The draw of `step(rand)` is `Config.rand` (log entry 1). -/
inductive Txn where
  | reset
  | load (bytes : List Byte)
  | step
  | tick
  | setKeys (k : BitVec 16)
  | drawAck
  deriving DecidableEq, Repr

/-- Memory as (address, byte) cells: addresses strictly rising, no cell equal to what its address reads as when it is
not listed (`Memory.unlisted`); `Memory.wf` says so. -/
abbrev Memory := List Host.Cell

/-- The 2048 pixels as 32 rows of 64 (10 R32). -/
abbrev Framebuffer := Vector (BitVec 64) 32

/-- A pixel: its column 0–63 and its row 0–31 (10 R32). -/
abbrev Pixel := Fin 64 × Fin 32

structure State where
  /-- the 4096 bytes 0x000–0xFFF (10 R35) -/
  mem      : Memory
  /-- V0–VF (10 R20) -/
  v        : Vector Byte 16
  /-- the index register I (10 R23) -/
  i        : Word
  /-- the program counter (10 R24) -/
  pc       : Word
  /-- the call stack, separate storage (10 R27) -/
  stack    : Vector Word 16
  /-- the stack pointer, 0 to 16 (10 R28) -/
  sp       : Fin 17
  /-- the delay timer (10 R30) -/
  delay    : Byte
  /-- the sound timer (10 R31) -/
  sound    : Byte
  /-- the framebuffer, 64 × 32 pixels row-major: bit x of row y is the pixel `fb[x + 64·y]`, 1 when set (10 R32) -/
  fb       : Framebuffer
  /-- the draw flag (10 R33) -/
  draw     : Bool
  /-- the keypad: bit k is key k, 1 when pressed (10 R34, 70 R262) -/
  key      : BitVec 16
  /-- the halt bit (10 R37) -/
  halted   : Bool
  /-- the record of the fatal condition that halted the core (10 R37) -/
  fault    : Option FaultRecord
  /-- The model's own: the transactions the host issues next, oldest first. When it is empty the next transaction is
  `step`. Only `step` of Step.lean reads it (log entry 2). -/
  schedule : List Txn
  /-- The model's own: how many RAND draws CXNN has taken (log entry 1). -/
  draws    : Nat
  deriving DecidableEq, Repr

/-- The machine right after reset (10 R41, 70 R250). Memory lists nothing: FONTSET at 0x000–0x04F and 0 elsewhere is what
an unlisted address reads as. The last two fields are the model's own and start empty (DESIGN CHOICE, log entries 1, 2). -/
def State.reset : State where
  mem      := []
  v        := Vector.replicate 16 0
  i        := 0
  pc       := 0x200
  stack    := Vector.replicate 16 0
  sp       := 0
  delay    := 0
  sound    := 0
  fb       := Vector.replicate 32 0
  draw     := true
  key      := 0
  halted   := false
  fault    := none
  schedule := []
  draws    := 0

end Sys2Proof.Machine
end

