-- ==== Sys2Proof/Machine/Ops.lean ====
section
/-! DEFINITION. The named operations over memory, registers, pc, stack and the fault record, and the taking of a fatal
condition (spec/20_memory.md, 10_state.md, 60_exceptions.md R212). -/

namespace Sys2Proof.Machine

/-! ### Memory (20 R60–R64) -/

/-- The number of bytes of memory (20 R60). -/
def memSize : Nat := 4096

/-- What an address that memory does not list reads as: its reset contents, FONTSET at 0x000–0x04F and 0 elsewhere
(10 R35, 70 R250). -/
def Memory.unlisted (a : Nat) : Byte := if h : a < 80 then Config.fontset[a] else 0

/-- The byte at `a`. -/
def Memory.read : Memory → Nat → Byte
  | [], a => Memory.unlisted a
  | (k, b) :: m, a => if k = a then b else Memory.read m a

/-- The cell of `a` holding `b` put before `m`, unless it says nothing an unlisted address does not. -/
def Memory.put (a : Nat) (b : Byte) (m : Memory) : Memory :=
  if b = Memory.unlisted a then m else (a, b) :: m

/-- `mem[a] <- b`, keeping the canonical form. -/
def Memory.write : Memory → Nat → Byte → Memory
  | [], a, b => Memory.put a b []
  | (k, c) :: m, a, b =>
    if k < a then (k, c) :: Memory.write m a b
    else if k = a then Memory.put a b m
    else Memory.put a b ((k, c) :: m)

/-- The bytes written from address `a` up. -/
def Memory.writeAll (m : Memory) (a : Nat) : List Byte → Memory
  | [] => m
  | b :: bs => Memory.writeAll (Memory.write m a b) (a + 1) bs

/-- The canonical form from address `lo` on: cells at rising addresses from `lo`, inside memory, none equal to what
its address reads as unlisted. -/
def Memory.wfFrom : Nat → Memory → Bool
  | _, [] => true
  | lo, (k, b) :: m => decide (lo ≤ k) && decide (k < memSize) && (b != Memory.unlisted k) && Memory.wfFrom (k + 1) m

/-- The canonical form of memory. -/
def Memory.wf (m : Memory) : Bool := Memory.wfFrom 0 m

/-! ### Conditions (60 R210) -/

/-- The numeric code of a condition (60 R210, decision D12). -/
def Condition.code : Condition → Nat
  | .stackOverflow    => 1
  | .stackUnderflow   => 2
  | .memoryOutOfRange => 3
  | .pcMisaligned     => 4
  | .keyOutOfRange    => 5
  | .romTooLarge      => 6
  | .unknownOpcode    => 7

/-- The class "fatal" of 60 R210: the conditions that halt the core. -/
def Condition.fatal : Condition → Bool
  | .stackOverflow | .stackUnderflow | .memoryOutOfRange | .pcMisaligned | .keyOutOfRange => true
  | .romTooLarge | .unknownOpcode => false

/-- A fatal condition as an instruction or the fetch raises it, `raise E(info)` of 00 R10. -/
inductive Raised where
  | stackOverflow
  | stackUnderflow
  | memoryOutOfRange (addr : Nat)
  | pcMisaligned
  | keyOutOfRange (key : Byte)
  deriving DecidableEq, Repr

/-- The condition a `raise` names. -/
def Raised.condition : Raised → Condition
  | .stackOverflow      => .stackOverflow
  | .stackUnderflow     => .stackUnderflow
  | .memoryOutOfRange _ => .memoryOutOfRange
  | .pcMisaligned       => .pcMisaligned
  | .keyOutOfRange _    => .keyOutOfRange

/-- The `info` a `raise` records (60 R213). -/
def Raised.info : Raised → FaultInfo
  | .memoryOutOfRange a => .address a
  | .keyOutOfRange k    => .key k
  | .stackOverflow | .stackUnderflow | .pcMisaligned => .none

/-- The record of a fatal condition raised at `s` (60 R213). -/
def faultRecord (c : Raised) (opcode : Option Word) (s : State) : FaultRecord :=
  { code := c.condition, pc := s.pc, opcode := opcode, info := c.info }

/-- TAKING A FATAL CONDITION (60 R212, R218): `s` is the state before the step, so every write of the step is
discarded; the core halts and the record is written. There is no return from it but `reset` and a successful `load`
(60 R214, R219). -/
def takeFatal (c : Raised) (opcode : Option Word) (s : State) : State :=
  { s with halted := true, fault := some (faultRecord c opcode s) }

/-- The end of an instruction `i` executed at `s` that computed `r`: its next state, or the fatal condition it raised
(30 R80, 60 R212). The opcode recorded is the word that was fetched, which is the word of `i`. -/
def conclude (i : Instr) (s : State) (r : Except Raised State) : Host.Outcome State Fault Refusal :=
  match r with
  | .ok t    => .next t
  | .error c => .next (takeFatal c (some (encode i)) s)

/-! ### The access primitives (20 R62) -/

/-- `MemRead(addr, 1)`. -/
def memRead (m : Memory) (a : Nat) : Except Raised Byte :=
  if a > 0xFFF then .error (.memoryOutOfRange a) else .ok (m.read a)

/-- `MemWrite(addr, 1, v)`. -/
def memWrite (m : Memory) (a : Nat) (b : Byte) : Except Raised Memory :=
  if a > 0xFFF then .error (.memoryOutOfRange a) else .ok (m.write a b)

/-- `MemRead(addr, 2)`, the instruction fetch only: two bytes, the first in bits 15:8 (20 R62, R65). -/
def memReadWord (m : Memory) (a : Nat) : Except Raised Word :=
  match memRead m a with
  | .error c => .error c
  | .ok hi =>
    match memRead m (a + 1) with
    | .error c => .error c
    | .ok lo => .ok (wordOfBytes hi lo)

/-- `n` bytes from `a` up, ascending; the first address out of range raises (60 R213). -/
def readBytes (m : Memory) (a : Nat) : Nat → Except Raised (List Byte)
  | 0 => .ok []
  | n + 1 =>
    match memRead m a with
    | .error c => .error c
    | .ok b =>
      match readBytes m (a + 1) n with
      | .error c => .error c
      | .ok bs => .ok (b :: bs)

/-- The bytes stored from `a` up, ascending; the first address out of range raises (60 R213) and nothing is kept. -/
def writeBytes (m : Memory) (a : Nat) : List Byte → Except Raised Memory
  | [] => .ok m
  | b :: bs =>
    match memWrite m a b with
    | .error c => .error c
    | .ok m'   => writeBytes m' (a + 1) bs

/-- Fetch (30 R81, R82): the checks in their order, then the word at pc. -/
def fetch (s : State) : Except Raised Word :=
  if s.pc[0] then .error .pcMisaligned
  else if s.pc.toNat > 0xFFE then .error (.memoryOutOfRange s.pc.toNat)
  else memReadWord s.mem s.pc.toNat

/-- The pc passes the fetch checks (30 R82). -/
def State.pcFetchable (s : State) : Bool := !s.pc[0] && decide (s.pc.toNat ≤ 0xFFE)

/-- `bs` placed where the next `step` transaction fetches, and what that fetch needs besides: no transaction before it,
a core that is not halted, and a pc that passes the fetch checks (left as it is when it does, else 0x200). -/
def State.placeAtFetch (s : State) (bs : List Byte) : State :=
  let a : Word := if s.pcFetchable then s.pc else 0x200
  { s with pc := a, mem := s.mem.writeAll a.toNat bs, halted := false, fault := none, schedule := [] }

/-! ### Registers, pc, stack, display, timers -/

/-- `V[r]` (00 R10). -/
def State.getV (s : State) (r : Reg) : Byte := s.v[r]

/-- `V[r] <- b` (00 R10). No register is hardwired (10 R20). -/
def State.setV (s : State) (r : Reg) (b : Byte) : State := { s with v := s.v.set r b }

/-- `V[k] <- bs[0], V[k+1] <- bs[1], …`, ascending, up to V[15]. -/
def State.setVsFrom (s : State) (k : Nat) : List Byte → State
  | [] => s
  | b :: bs => if h : k < 16 then (s.setV ⟨k, h⟩ b).setVsFrom (k + 1) bs else s

/-- `I <- w`. -/
def State.setI (s : State) (w : Word) : State := { s with i := w }

/-- `pc <- w`. -/
def State.setPc (s : State) (w : Word) : State := { s with pc := w }

/-- `pc <- pc + 2`, in 16 bits (10 R25). -/
def State.advance (s : State) : State := s.setPc (s.pc + 2)

/-- A skip: `pc <- pc + 4` when the condition holds, else `pc <- pc + 2` (40_control_flow.md section 2). -/
def State.skipIf (s : State) (c : Bool) : State := s.setPc (if c then s.pc + 4 else s.pc + 2)

/-- `mem <- m`. -/
def State.setMem (s : State) (m : Memory) : State := { s with mem := m }

/-- `delay <- b`. -/
def State.setDelay (s : State) (b : Byte) : State := { s with delay := b }

/-- `sound <- b`. -/
def State.setSound (s : State) (b : Byte) : State := { s with sound := b }

/-- The framebuffer written and the draw flag set, as 00E0 and DXYN do it every time (10 R33, decision D19). -/
def State.present (s : State) (fb : Framebuffer) : State := { s with fb := fb, draw := true }

/-- A push (40 R102): `stack[sp] <- w; sp <- sp + 1`, or StackOverflow when sp = 16. -/
def State.push (s : State) (w : Word) : Except Raised State :=
  if h : s.sp.val < 16 then .ok { s with stack := s.stack.set s.sp.val w, sp := ⟨s.sp.val + 1, by omega⟩ }
  else .error .stackOverflow

/-- A pop (40 R100): StackUnderflow when sp = 0, else `sp <- sp - 1` and the entry at the new sp, which stays in the
stack (10 R29). -/
def State.pop (s : State) : Except Raised (Word × State) :=
  if h : s.sp.val = 0 then .error .stackUnderflow
  else .ok (s.stack[s.sp.val - 1]'(by omega), { s with sp := ⟨s.sp.val - 1, by omega⟩ })

/-- One RAND draw taken (log entry 1). -/
def State.countDraw (s : State) : State := { s with draws := s.draws + 1 }

/-- The pixel of column px, row py: `fb[px + 64·py]` (43_display.md, 10 R32). -/
def pixelOf (fb : Framebuffer) (p : Pixel) : Bool := fb[p.2].getLsbD p.1.val

/-- `fb[px + 64·py] <- fb[px + 64·py] XOR 1` (43 R171). -/
def flipPixel (fb : Framebuffer) (p : Pixel) : Framebuffer := fb.set p.2 (fb[p.2] ^^^ BitVec.twoPow 64 p.1.val)

/-- Every pixel clear (43 R170). -/
def clearFb : Framebuffer := Vector.replicate 32 0

/-- The pixel of index `i` in the row-major order of 10 R32, `i = x + y*64`. -/
def pixelAt (i : Fin 2048) : Pixel := (Fin.ofNat 64 (i.val % 64), Fin.ofNat 32 (i.val / 64))

/-- The recommended FONTSET (70 R252, from general knowledge): the premise a claim about font bytes names. Nothing in
the model reads it. -/
def recommendedFont : Vector Byte 80 :=
  #v[0xF0, 0x90, 0x90, 0x90, 0xF0,  0x20, 0x60, 0x20, 0x20, 0x70,
     0xF0, 0x10, 0xF0, 0x80, 0xF0,  0xF0, 0x10, 0xF0, 0x10, 0xF0,
     0x90, 0x90, 0xF0, 0x10, 0x10,  0xF0, 0x80, 0xF0, 0x10, 0xF0,
     0xF0, 0x80, 0xF0, 0x90, 0xF0,  0xF0, 0x10, 0x20, 0x40, 0x40,
     0xF0, 0x90, 0xF0, 0x90, 0xF0,  0xF0, 0x90, 0xF0, 0x10, 0xF0,
     0xF0, 0x90, 0xF0, 0x90, 0x90,  0xE0, 0x90, 0xE0, 0x90, 0xE0,
     0xF0, 0x80, 0x80, 0x80, 0xF0,  0xE0, 0x90, 0x90, 0x90, 0xE0,
     0xF0, 0x80, 0xF0, 0x80, 0xF0,  0xF0, 0x80, 0xF0, 0x80, 0x80]

end Sys2Proof.Machine
end

