-- ==== Sys2Proof/Machine/Flags.lean ====
section
/-! DEFINITION. The flag computations: what 8XY4, 8XY5, 8XY6, 8XY7, 8XYE and DXYN write into VF (spec/10_state.md R21,
41_registers_alu.md R120). A flag is the byte 1 or 0. -/

namespace Sys2Proof.Machine

/-- A flag as VF holds it. -/
def flag (b : Bool) : Byte := if b then 1 else 0

/-- The carry of 8XY4: `sum > 255` over the unbounded sum (41 R120, R127). -/
def carryFlag (a b : Byte) : Byte := flag (a.toNat + b.toNat > 255)

/-- The "borrow flag" of 8XY5 and 8XY7: 0 when the subtrahend exceeds the minuend, else 1 (41 R120, R128, R130). -/
def noBorrowFlag (minuend subtrahend : Byte) : Byte := flag (!(subtrahend.toNat > minuend.toNat))

/-- The bit 8XY6 shifts out, `v AND 1` (41 R129). -/
def shiftRightFlag (v : Byte) : Byte := v &&& 1

/-- The bit 8XYE shifts out, `v >> 7` (41 R131). -/
def shiftLeftFlag (v : Byte) : Byte := v >>> 7

/-- `VF <- f` for a flag. -/
def State.setVF (s : State) (f : Byte) : State := s.setV vF f

end Sys2Proof.Machine
end

