-- ==== Sys2Proof/Machine/Alu.lean ====
section
/-! DEFINITION. The meanings of 6XNN, 7XNN, 8XY0–8XYE, CXNN (spec/41_registers_alu.md). Statements run in order, each
reading the registers as those before it left them (00 R10, decision D3): so VF is written before V[x] is computed, and
only the `sum` of 8XY4 is a temporary. -/

namespace Sys2Proof.Machine

/-- 6XNN (41 R121). -/
def execLdByte (x : Reg) (nn : Byte) (s : State) : Host.Outcome State Fault Refusal :=
  conclude (.ldByte x nn) s (.ok (s.setV x nn).advance)

/-- 7XNN (41 R122): no flag. -/
def execAddByte (x : Reg) (nn : Byte) (s : State) : Host.Outcome State Fault Refusal :=
  conclude (.addByte x nn) s (.ok (s.setV x (s.getV x + nn)).advance)

/-- 8XY0 (41 R123). -/
def execLdReg (x y : Reg) (s : State) : Host.Outcome State Fault Refusal :=
  conclude (.ldReg x y) s (.ok (s.setV x (s.getV y)).advance)

/-- 8XY1 (41 R124): VF is not reset. -/
def execOrReg (x y : Reg) (s : State) : Host.Outcome State Fault Refusal :=
  conclude (.orReg x y) s (.ok (s.setV x (s.getV x ||| s.getV y)).advance)

/-- 8XY2 (41 R125): VF is not reset. -/
def execAndReg (x y : Reg) (s : State) : Host.Outcome State Fault Refusal :=
  conclude (.andReg x y) s (.ok (s.setV x (s.getV x &&& s.getV y)).advance)

/-- 8XY3 (41 R126): VF is not reset. -/
def execXorReg (x y : Reg) (s : State) : Host.Outcome State Fault Refusal :=
  conclude (.xorReg x y) s (.ok (s.setV x (s.getV x ^^^ s.getV y)).advance)

/-- 8XY4 (41 R127): `sum` is taken before VF is written. -/
def execAddReg (x y : Reg) (s : State) : Host.Outcome State Fault Refusal :=
  let sum := s.getV x + s.getV y
  let s₁ := s.setVF (carryFlag (s.getV x) (s.getV y))
  conclude (.addReg x y) s (.ok (s₁.setV x sum).advance)

/-- 8XY5 (41 R128): the difference is read after the VF write. -/
def execSubReg (x y : Reg) (s : State) : Host.Outcome State Fault Refusal :=
  let s₁ := s.setVF (noBorrowFlag (s.getV x) (s.getV y))
  conclude (.subReg x y) s (.ok (s₁.setV x (s₁.getV x - s₁.getV y)).advance)

/-- 8XY6 (41 R129): V[x] is read after the VF write; y is ignored (decision D25). -/
def execShr (x y : Reg) (s : State) : Host.Outcome State Fault Refusal :=
  let s₁ := s.setVF (shiftRightFlag (s.getV x))
  conclude (.shr x y) s (.ok (s₁.setV x (s₁.getV x >>> 1)).advance)

/-- 8XY7 (41 R130): the difference is read after the VF write. -/
def execSubnReg (x y : Reg) (s : State) : Host.Outcome State Fault Refusal :=
  let s₁ := s.setVF (noBorrowFlag (s.getV y) (s.getV x))
  conclude (.subnReg x y) s (.ok (s₁.setV x (s₁.getV y - s₁.getV x)).advance)

/-- 8XYE (41 R131): V[x] is read after the VF write; y is ignored (decision D25). -/
def execShl (x y : Reg) (s : State) : Host.Outcome State Fault Refusal :=
  let s₁ := s.setVF (shiftLeftFlag (s.getV x))
  conclude (.shl x y) s (.ok (s₁.setV x (s₁.getV x <<< 1)).advance)

/-- What CXNN does with the draw `rand` (41 R132). -/
def randomAnd (rand : Byte) (x : Reg) (nn : Byte) (s : State) : State := (s.setV x (rand &&& nn)).advance

/-- CXNN (41 R132): the draw is a free value (decision D9, log entry 1). -/
def execRnd (x : Reg) (nn : Byte) (s : State) : Host.Outcome State Fault Refusal :=
  conclude (.rnd x nn) s (.ok (randomAnd (Config.rand s.draws) x nn s).countDraw)

end Sys2Proof.Machine
end

