-- ==== Sys2Proof/Machine/Operands.lean ====
section
/-! DEFINITION. The operand forms: the immediates, the I-based effective address and what FX29, FX33 and FX55 make of
their registers (spec/30_encoding.md R84, 20_memory.md R64, 42_index_memory.md). -/

namespace Sys2Proof.Machine

/-- `zext_16(nnn)` (30 R84). -/
def addrOperand (nnn : Addr12) : Word := nnn.setWidth 16

/-- `zext_16(V[x])`. -/
def State.getV16 (s : State) (x : Reg) : Word := (s.getV x).setWidth 16

/-- `EA(k) = zext(I[11:0]) + k`, an unbounded integer, never wrapped (20 R64). -/
def ea (s : State) (k : Nat) : Nat := (s.i.extractLsb' 0 12).toNat + k

/-- The address of the glyph of `v`: `zext_16(v) * 5`, not masked to a digit (42 R152, decision D26). -/
def glyphAddr (v : Byte) : Word := v.setWidth 16 * 5

/-- The decimal digits of `v`: hundreds, tens, ones (42 R153). -/
def bcdDigits (v : Byte) : List Byte :=
  [BitVec.ofNat 8 (v.toNat / 100), BitVec.ofNat 8 (v.toNat / 10 % 10), BitVec.ofNat 8 (v.toNat % 10)]

/-- `V[0]`, …, `V[x]`, ascending (42 R154). -/
def State.regsUpTo (s : State) (x : Reg) : List Byte := s.v.toList.take (x.val + 1)

end Sys2Proof.Machine
end

