-- ==== Sys2Proof/Machine/ControlFlow.lean ====
section
/-! DEFINITION. The meanings of 00EE, 1NNN, 2NNN, 3XNN, 4XNN, 5XY0, 9XY0, BNNN (spec/40_control_flow.md). -/

namespace Sys2Proof.Machine

/-- 00EE (40 R100): the return lands after the 2NNN that pushed the entry. -/
def execRet (s : State) : Host.Outcome State Fault Refusal :=
  conclude .ret s <|
    match s.pop with
    | .error c      => .error c
    | .ok (w, s')   => .ok (s'.setPc (w + 2))

/-- 1NNN (40 R101). An odd target is stored; the next fetch raises (decision D6). -/
def execJp (nnn : Addr12) (s : State) : Host.Outcome State Fault Refusal :=
  conclude (.jp nnn) s (.ok (s.setPc (addrOperand nnn)))

/-- 2NNN (40 R102): the address of this instruction is pushed. -/
def execCall (nnn : Addr12) (s : State) : Host.Outcome State Fault Refusal :=
  conclude (.call nnn) s <|
    match s.push s.pc with
    | .error c => .error c
    | .ok s'   => .ok (s'.setPc (addrOperand nnn))

/-- 3XNN (40 R103). -/
def execSeByte (x : Reg) (nn : Byte) (s : State) : Host.Outcome State Fault Refusal :=
  conclude (.seByte x nn) s (.ok (s.skipIf (s.getV x == nn)))

/-- 4XNN (40 R104). -/
def execSneByte (x : Reg) (nn : Byte) (s : State) : Host.Outcome State Fault Refusal :=
  conclude (.sneByte x nn) s (.ok (s.skipIf (s.getV x != nn)))

/-- 5XY0 (40 R105). -/
def execSeReg (x y : Reg) (s : State) : Host.Outcome State Fault Refusal :=
  conclude (.seReg x y) s (.ok (s.skipIf (s.getV x == s.getV y)))

/-- 9XY0 (40 R106). -/
def execSneReg (x y : Reg) (s : State) : Host.Outcome State Fault Refusal :=
  conclude (.sneReg x y) s (.ok (s.skipIf (s.getV x != s.getV y)))

/-- BNNN (40 R107): always V0, whatever bits 11:8 hold. -/
def execJpV0 (nnn : Addr12) (s : State) : Host.Outcome State Fault Refusal :=
  conclude (.jpV0 nnn) s (.ok (s.setPc (addrOperand nnn + s.getV16 0)))

end Sys2Proof.Machine
end

