-- ==== Sys2Proof/Machine/Display.lean ====
section
/-! DEFINITION. The meanings of 00E0 and DXYN: the framebuffer blitter and the collision detector
(spec/43_display.md). -/

namespace Sys2Proof.Machine

/-- 00E0 (43 R170): the draw flag is set whatever the screen held. -/
def execCls (s : State) : Host.Outcome State Fault Refusal :=
  conclude .cls s (.ok (s.present clearFb).advance)

/-- The pixel of column `col`, row `row` of a sprite at (x0, y0), `((x0 + col) mod 64, (y0 + row) mod 32)`: each
coordinate wraps on its own (43 R171, R176). -/
def spritePixel (x0 y0 row col : Nat) : Pixel := (Fin.ofNat 64 (x0 + col), Fin.ofNat 32 (y0 + row))

/-- The pixels the set bits of one sprite row address, most significant bit first (43 R171). -/
def rowPixels (x0 y0 row : Nat) (b : Byte) : List Pixel :=
  ((List.range 8).filter fun col => b.getLsbD (7 - col)).map (spritePixel x0 y0 row)

/-- The pixels the set bits of the sprite rows address, the first of them row `row`, in the order they are drawn. -/
def spritePixels (x0 y0 row : Nat) : List Byte → List Pixel
  | [] => []
  | b :: bs => rowPixels x0 y0 row b ++ spritePixels x0 y0 (row + 1) bs

/-- One pixel drawn: the collision is decided before the XOR (43 R171, R174). -/
def blitPixel (acc : Framebuffer × Bool) (p : Pixel) : Framebuffer × Bool :=
  (flipPixel acc.1 p, acc.2 || pixelOf acc.1 p)

/-- The pixels drawn in order: the new framebuffer and the collision result (43 R171, R173). -/
def blit (fb : Framebuffer) (pixels : List Pixel) : Framebuffer × Bool := pixels.foldl blitPixel (fb, false)

/-- The sprite rows `bs` drawn at (V[x] mod 64, V[y] mod 32), both read before VF is written (43 R171, R175). -/
def drawSprite (x y : Reg) (bs : List Byte) (s : State) : State :=
  let r := blit s.fb (spritePixels ((s.getV x).toNat % 64) ((s.getV y).toNat % 32) 0 bs)
  ((s.present r.1).setVF (flag r.2)).advance

/-- DXYN (43 R171, R172): the `n` sprite bytes lie at EA(0)..EA(n-1); with n = 0 none is read. -/
def execDrw (x y : Reg) (n : BitVec 4) (s : State) : Host.Outcome State Fault Refusal :=
  conclude (.drw x y n) s <|
    match readBytes s.mem (ea s 0) n.toNat with
    | .error c => .error c
    | .ok bs   => .ok (drawSprite x y bs s)

end Sys2Proof.Machine
end

