-- ==== Sys2Proof/Machine/IndexMemory.lean ====
section
/-! DEFINITION. The meanings of ANNN, FX1E, FX29, FX33, FX55, FX65 (spec/42_index_memory.md). -/

namespace Sys2Proof.Machine

/-- ANNN (42 R150). -/
def execLdI (nnn : Addr12) (s : State) : Host.Outcome State Fault Refusal :=
  conclude (.ldI nnn) s (.ok (s.setI (addrOperand nnn)).advance)

/-- FX1E (42 R151): modulo 2^16, VF never written (decision D5). -/
def execAddIVx (x : Reg) (s : State) : Host.Outcome State Fault Refusal :=
  conclude (.addIVx x) s (.ok (s.setI (s.i + s.getV16 x)).advance)

/-- FX29 (42 R152). -/
def execLdFVx (x : Reg) (s : State) : Host.Outcome State Fault Refusal :=
  conclude (.ldFVx x) s (.ok (s.setI (glyphAddr (s.getV x))).advance)

/-- The bytes stored from EA(0) up, then pc + 2; the shape of FX33 and FX55. I is unchanged. -/
def storeAtI (bytes : List Byte) (s : State) : Except Raised State :=
  match writeBytes s.mem (ea s 0) bytes with
  | .error c => .error c
  | .ok m    => .ok (s.setMem m).advance

/-- FX33 (42 R153). -/
def execLdBVx (x : Reg) (s : State) : Host.Outcome State Fault Refusal :=
  conclude (.ldBVx x) s (storeAtI (bcdDigits (s.getV x)) s)

/-- FX55 (42 R154). -/
def execStRegs (x : Reg) (s : State) : Host.Outcome State Fault Refusal :=
  conclude (.stRegs x) s (storeAtI (s.regsUpTo x) s)

/-- FX65 (42 R155). No register is written when a byte is out of range. -/
def execLdRegs (x : Reg) (s : State) : Host.Outcome State Fault Refusal :=
  conclude (.ldRegs x) s <|
    match readBytes s.mem (ea s 0) (x.val + 1) with
    | .error c => .error c
    | .ok bs   => .ok (s.setVsFrom 0 bs).advance

end Sys2Proof.Machine
end

