-- ==== Sys2Proof/Machine/KeysTimers.lean ====
section
/-! DEFINITION. The meanings of EX9E, EXA1, FX07, FX0A, FX15, FX18 (spec/44_keys_timers.md). -/

namespace Sys2Proof.Machine

/-- `key[V[x]]`, or KeyOutOfRange when V[x] > 0xF (44 R196, decision D7). -/
def State.keyOf (s : State) (x : Reg) : Except Raised Bool :=
  if (s.getV x).toNat > 0xF then .error (.keyOutOfRange (s.getV x)) else .ok (s.key.getLsbD (s.getV x).toNat)

/-- EX9E (44 R190). -/
def execSkp (x : Reg) (s : State) : Host.Outcome State Fault Refusal :=
  conclude (.skp x) s <|
    match s.keyOf x with
    | .error c    => .error c
    | .ok pressed => .ok (s.skipIf pressed)

/-- EXA1 (44 R191). -/
def execSknp (x : Reg) (s : State) : Host.Outcome State Fault Refusal :=
  conclude (.sknp x) s <|
    match s.keyOf x with
    | .error c    => .error c
    | .ok pressed => .ok (s.skipIf (!pressed))

/-- FX07 (44 R192). -/
def execLdVxDT (x : Reg) (s : State) : Host.Outcome State Fault Refusal :=
  conclude (.ldVxDT x) s (.ok (s.setV x s.delay).advance)

/-- The lowest-indexed pressed key, if any key is pressed (44 R193). -/
def lowestKey (key : BitVec 16) : Option Nat := (List.range 16).find? (key.getLsbD ·)

/-- FX0A (44 R193): with no key pressed nothing is written, pc included, and the next step fetches it again
(10 R38). -/
def execLdVxK (x : Reg) (s : State) : Host.Outcome State Fault Refusal :=
  conclude (.ldVxK x) s <|
    match lowestKey s.key with
    | none   => .ok s
    | some k => .ok (s.setV x (BitVec.ofNat 8 k)).advance

/-- FX15 (44 R194). -/
def execLdDTVx (x : Reg) (s : State) : Host.Outcome State Fault Refusal :=
  conclude (.ldDTVx x) s (.ok (s.setDelay (s.getV x)).advance)

/-- FX18 (44 R195): no tone event here (60 R231). -/
def execLdSTVx (x : Reg) (s : State) : Host.Outcome State Fault Refusal :=
  conclude (.ldSTVx x) s (.ok (s.setSound (s.getV x)).advance)

end Sys2Proof.Machine
end

