-- ==== Sys2Proof/Machine/Transact.lean ====
section
/-! DEFINITION. The transactions, which are the whole interface of the block (spec/70_reset_and_hazards.md R262), each
with what it writes and what it outputs. An output is not state (10 R39): it is a function of the state the transaction
is issued in. -/

namespace Sys2Proof.Machine

/-! ### step (30 R80, R94) -/

/-- The `step` transaction. The priority of conditions is that of 60 R215: halted, the fetch checks, an unrecognized
opcode (30 R93: only pc changes), the instruction's own condition. -/
def stepTxn (s : State) : Host.Outcome State Fault Refusal :=
  if s.halted then .next s
  else
    match fetch s with
    | .error c => .next (takeFatal c none s)
    | .ok w =>
      match decodeWord w with
      | .error _ => .next s.advance
      | .ok i    => exec i s

/-- The status a step returns (30 R94). -/
inductive StepStatus where
  /-- an instruction took effect -/
  | executed
  /-- FX0A with no key pressed -/
  | waiting
  /-- the report of an unrecognized opcode and the address it stood at (30 R93) -/
  | unknown (opcode pc : Word)
  /-- a fatal condition -/
  | fault (r : FaultRecord)
  /-- the core was halted already, with the record that `fault` holds -/
  | halted (r : Option FaultRecord)
  deriving DecidableEq, Repr

/-- FX0A with no key pressed (44 R193). -/
def waits (i : Instr) (s : State) : Bool :=
  match i with
  | .ldVxK _ => (lowestKey s.key).isNone
  | _        => false

/-- The status of an instruction executed at `s`, none where it has no next state. -/
def instrStatus (i : Instr) (s : State) : Option StepStatus :=
  match exec i s with
  | .next t =>
    match t.halted, t.fault with
    | true, some r => some (.fault r)
    | _, _         => some (if waits i s then .waiting else .executed)
  | .fault _   => none
  | .refused _ => none

/-- The status of the `step` transaction issued in `s`. -/
def stepStatus (s : State) : Option StepStatus :=
  if s.halted then some (.halted s.fault)
  else
    match fetch s with
    | .error c => some (.fault (faultRecord c none s))
    | .ok w =>
      match decodeWord w with
      | .error _ => some (.unknown w s.pc)
      | .ok i    => instrStatus i s

/-! ### tick (60 R230, R231) -/

/-- One timer counted down, never below 0. -/
def countDown (t : Byte) : Byte := if t = 0 then 0 else t - 1

/-- The `tick` transaction: a halted core's timers stand still (60 R214). -/
def tickTxn (s : State) : State :=
  if s.halted then s else (s.setDelay (countDown s.delay)).setSound (countDown s.sound)

/-- The tone event: the tick that takes `sound` from 1 to 0 (60 R231). -/
def tickTone (s : State) : Bool := !s.halted && s.sound == 1

/-! ### reset, load, set_keys, draw_ack -/

/-- The `reset` transaction (70 R250). The two fields of the model itself are the host's side and stay. -/
def resetTxn (s : State) : State := { State.reset with schedule := s.schedule, draws := s.draws }

/-- The greatest ROM length, 4096 − 512 (00 R6, 70 R254). -/
def maxRom : Nat := 3584

/-- The `load` transaction (70 R253, R254): nothing changes when the ROM is too large. -/
def loadTxn (bytes : List Byte) (s : State) : State :=
  if bytes.length > maxRom then s
  else (resetTxn s).setMem ((resetTxn s).mem.writeAll 0x200 bytes)

/-- What `load` answers (70 R253, R254). -/
inductive LoadResult where
  | ok
  | romTooLarge (length : Nat)
  deriving DecidableEq, Repr

def loadResult (bytes : List Byte) : LoadResult :=
  if bytes.length > maxRom then .romTooLarge bytes.length else .ok

/-- The `set_keys` transaction: all 16 keys at once, also while halted (10 R34, 60 R214). -/
def setKeysTxn (k : BitVec 16) (s : State) : State := { s with key := k }

/-- The `draw_ack` transaction, also while halted (10 R33, 60 R214). -/
def drawAckTxn (s : State) : State := { s with draw := false }

/-! ### Any transaction -/

/-- What a transaction writes. -/
def transact (t : Txn) (s : State) : Host.Outcome State Fault Refusal :=
  match t with
  | .reset     => .next (resetTxn s)
  | .load bs   => .next (loadTxn bs s)
  | .step      => stepTxn s
  | .tick      => .next (tickTxn s)
  | .setKeys k => .next (setKeysTxn k s)
  | .drawAck   => .next (drawAckTxn s)

/-- The outputs of a transaction (70 R262). -/
inductive Output where
  | none
  | status (st : Option StepStatus)
  | tone (on : Bool)
  | load (r : LoadResult)
  deriving DecidableEq, Repr

/-- What the transaction `t` issued in `s` outputs. -/
def txnOutput (t : Txn) (s : State) : Output :=
  match t with
  | .reset     => .none
  | .load bs   => .load (loadResult bs)
  | .step      => .status (stepStatus s)
  | .tick      => .tone (tickTone s)
  | .setKeys _ => .none
  | .drawAck   => .none

/-- What the host may read between transactions, changing nothing (70 R262, 43 R178). -/
structure HostView where
  fb     : Framebuffer
  draw   : Bool
  halted : Bool
  fault  : Option FaultRecord
  deriving DecidableEq, Repr

def State.hostView (s : State) : HostView := { fb := s.fb, draw := s.draw, halted := s.halted, fault := s.fault }

/-- The next transaction the host issues, and the state with it taken off the schedule. -/
def nextTxn (s : State) : Txn × State :=
  match s.schedule with
  | []      => (.step, s)
  | t :: ts => (t, { s with schedule := ts })

/-- A run: the transactions of a list, in its order, each issued in the state the one before it left (70 R260). It stops
where one has no next state. -/
def runTxns : List Txn → State → Host.Outcome State Fault Refusal
  | [], s => .next s
  | t :: ts, s =>
    match transact t s with
    | .next s'   => runTxns ts s'
    | .fault r   => .fault r
    | .refused r => .refused r

end Sys2Proof.Machine
end

