-- ==== Sys2Proof/Machine/Step.lean ====
section
/-! DEFINITION. The machine's step: the host's next transaction, done (spec/70_reset_and_hazards.md R260–R262). -/

namespace Sys2Proof.Machine

/-- One transaction: the first that `schedule` lists, and the `step` transaction when it lists none (log entry 2). -/
def step (s : State) : Host.Outcome State Fault Refusal :=
  let p := nextTxn s
  transact p.1 p.2

/-- What that transaction outputs. -/
def stepOutput (s : State) : Output :=
  let p := nextTxn s
  txnOutput p.1 p.2

/-- `s` with the opcode table's word `w` placed where `step` fetches its next instruction (log entry 7). -/
def State.withFetchWord (s : State) (nbits w : Nat) : State := s.placeAtFetch (tableBytes nbits w)

end Sys2Proof.Machine
end

