-- ==== Sys2Proof/Safety.lean ====
section
/-! DEFINITION. The terms claims are stated in: the end states of a run (spec/70_reset_and_hazards.md R264), what an
instruction may write and read (10_state.md R22, R25), frames, and the invariant of reachable states. -/

namespace Sys2Proof.Machine

/-! ### End states (70 R264) -/

/-- `faulted`: a bad end. -/
def Faulted (s : State) : Prop := s.halted = true

/-- `idle`: the core runs and the word at pc is 1NNN with nnn = pc. -/
def Idle (s : State) : Prop :=
  s.halted = false ∧ ∃ nnn, fetch s = .ok (encode (.jp nnn)) ∧ addrOperand nnn = s.pc

/-- `waiting`: the core runs, the word at pc is FX0A and no key is pressed. -/
def Waiting (s : State) : Prop :=
  s.halted = false ∧ s.key = 0 ∧ ∃ x, fetch s = .ok (encode (.ldVxK x))

/-! ### Frames -/

/-- The fields of State besides memory and V. -/
inductive Part where
  | i | pc | stack | sp | delay | sound | fb | draw | key | halted | fault | schedule | draws
  deriving DecidableEq, Repr

/-- The field is the same in both states. -/
def Part.same : Part → State → State → Prop
  | .i, s, t        => t.i = s.i
  | .pc, s, t       => t.pc = s.pc
  | .stack, s, t    => t.stack = s.stack
  | .sp, s, t       => t.sp = s.sp
  | .delay, s, t    => t.delay = s.delay
  | .sound, s, t    => t.sound = s.sound
  | .fb, s, t       => t.fb = s.fb
  | .draw, s, t     => t.draw = s.draw
  | .key, s, t      => t.key = s.key
  | .halted, s, t   => t.halted = s.halted
  | .fault, s, t    => t.fault = s.fault
  | .schedule, s, t => t.schedule = s.schedule
  | .draws, s, t    => t.draws = s.draws

/-- From `s` to `t` nothing changes but the registers of `regs`, the fields of `parts` and the bytes at the addresses
of `stored`. -/
structure Frame (regs : List Reg) (parts : List Part) (stored : Nat → Prop) (s t : State) : Prop where
  regs   : ∀ r, r ∉ regs → t.getV r = s.getV r
  parts  : ∀ p, p ∉ parts → p.same s t
  memory : ∀ a, ¬ stored a → t.mem.read a = s.mem.read a

/-- No byte is stored. -/
def noBytes : Nat → Prop := fun _ => False

/-- The `n` bytes from `a` up. -/
def bytesAt (a n : Nat) : Nat → Prop := fun b => a ≤ b ∧ b < a + n

/-- `i` executed at `s` answers a next state in which `P` holds and all but the named things is unchanged. -/
def Completes (i : Instr) (s : State) (regs : List Reg) (parts : List Part) (stored : Nat → Prop) (P : State → Prop) :
    Prop :=
  ∃ t, exec i s = .next t ∧ P t ∧ Frame regs parts stored s t

/-- `i` executed at `s` takes the fatal condition `c` (60 R212): the core halts with the record, and everything else is
as it was before the instruction, pc included. -/
def Raises (i : Instr) (s : State) (c : Condition) (info : FaultInfo) : Prop :=
  Completes i s [] [.halted, .fault] noBytes fun t =>
    t.halted = true ∧ t.fault = some { code := c, pc := s.pc, opcode := some (encode i), info := info }

/-! ### What an instruction may write and read -/

/-- The registers V[0]..V[x]. -/
def regsTo (x : Reg) : List Reg := (List.finRange 16).filter (· ≤ x)

/-- The column "writes V" of 10 R22. -/
def writesV : Instr → List Reg
  | .ldByte x _ | .addByte x _ | .ldReg x _ | .orReg x _ | .andReg x _ | .xorReg x _ => [x]
  | .addReg x _ | .subReg x _ | .subnReg x _ | .shr x _ | .shl x _ => [vF, x]
  | .rnd x _ | .ldVxDT x | .ldVxK x => [x]
  | .drw _ _ _ => [vF]
  | .ldRegs x  => regsTo x
  | .cls | .ret | .jp _ | .call _ | .seByte _ _ | .sneByte _ _ | .seReg _ _ | .sneReg _ _ | .ldI _ | .jpV0 _
  | .skp _ | .sknp _ | .ldDTVx _ | .ldSTVx _ | .addIVx _ | .ldFVx _ | .ldBVx _ | .stRegs _ => []

/-- The column "reads V" of 10 R22. -/
def readsV : Instr → List Reg
  | .seByte x _ | .sneByte x _ | .addByte x _ => [x]
  | .seReg x y | .sneReg x y => [x, y]
  | .ldReg _ y => [y]
  | .orReg x y | .andReg x y | .xorReg x y | .addReg x y | .subReg x y | .subnReg x y => [x, y]
  | .shr x _ | .shl x _ => [x]
  | .jpV0 _ => [0]
  | .drw x y _ => [x, y]
  | .skp x | .sknp x | .ldDTVx x | .ldSTVx x | .addIVx x | .ldFVx x | .ldBVx x => [x]
  | .stRegs x => regsTo x
  | .cls | .ret | .jp _ | .call _ | .ldByte _ _ | .ldI _ | .rnd _ _ | .ldVxDT _ | .ldVxK _ | .ldRegs _ => []

/-- The other state an instruction writes when it raises nothing: pc always, and what 10 R23, R27, R30, R31, R33 name.
`draws` is the model's count of CXNN's draws. -/
def writesParts : Instr → List Part
  | .cls | .drw _ _ _ => [.pc, .fb, .draw]
  | .ret              => [.pc, .sp]
  | .call _           => [.pc, .sp, .stack]
  | .ldI _ | .addIVx _ | .ldFVx _ => [.pc, .i]
  | .ldDTVx _         => [.pc, .delay]
  | .ldSTVx _         => [.pc, .sound]
  | .rnd _ _          => [.pc, .draws]
  | .jp _ | .seByte _ _ | .sneByte _ _ | .seReg _ _ | .sneReg _ _ | .ldByte _ _ | .addByte _ _ | .ldReg _ _
  | .orReg _ _ | .andReg _ _ | .xorReg _ _ | .addReg _ _ | .subReg _ _ | .shr _ _ | .subnReg _ _ | .shl _ _
  | .jpV0 _ | .skp _ | .sknp _ | .ldVxDT _ | .ldVxK _ | .ldBVx _ | .stRegs _ | .ldRegs _ => [.pc]

/-- The addresses an instruction stores to (20 R67). -/
def stores : Instr → State → Nat → Prop
  | .ldBVx _, s  => bytesAt (ea s 0) 3
  | .stRegs x, s => bytesAt (ea s 0) (x.val + 1)
  | _, _         => noBytes

/-- The condition an instruction can raise (60 R211). -/
def mayRaise : Instr → Option Condition
  | .call _ => some .stackOverflow
  | .ret    => some .stackUnderflow
  | .skp _ | .sknp _ => some .keyOutOfRange
  | .ldBVx _ | .stRegs _ | .ldRegs _ | .drw _ _ _ => some .memoryOutOfRange
  | .cls | .jp _ | .seByte _ _ | .sneByte _ _ | .seReg _ _ | .ldByte _ _ | .addByte _ _ | .ldReg _ _ | .orReg _ _
  | .andReg _ _ | .xorReg _ _ | .addReg _ _ | .subReg _ _ | .shr _ _ | .subnReg _ _ | .shl _ _ | .sneReg _ _
  | .ldI _ | .jpV0 _ | .rnd _ _ | .ldVxDT _ | .ldVxK _ | .ldDTVx _ | .ldSTVx _ | .addIVx _ | .ldFVx _ => none

/-- A skip's new pc (10 R25). -/
def pcSkip (s : State) (c : Prop) [Decidable c] : Word := if c then s.pc + 4 else s.pc + 2

/-- The new pc of an instruction that raises nothing, in 16 bits (the table of 10 R25). -/
def pcAfter (i : Instr) (s : State) : Word :=
  match i with
  | .seByte x nn  => pcSkip s (s.getV x = nn)
  | .sneByte x nn => pcSkip s (s.getV x ≠ nn)
  | .seReg x y    => pcSkip s (s.getV x = s.getV y)
  | .sneReg x y   => pcSkip s (s.getV x ≠ s.getV y)
  | .skp x        => pcSkip s (s.key.getLsbD (s.getV x).toNat = true)
  | .sknp x       => pcSkip s (s.key.getLsbD (s.getV x).toNat = false)
  | .jp nnn       => nnn.setWidth 16
  | .call nnn     => nnn.setWidth 16
  | .jpV0 nnn     => nnn.setWidth 16 + (s.getV 0).setWidth 16
  | .ret          => s.stack.getD (s.sp.val - 1) 0 + 2
  | .ldVxK _      => if s.key = 0 then s.pc else s.pc + 2
  | .cls | .ldByte _ _ | .addByte _ _ | .ldReg _ _ | .orReg _ _ | .andReg _ _ | .xorReg _ _ | .addReg _ _
  | .subReg _ _ | .shr _ _ | .subnReg _ _ | .shl _ _ | .ldI _ | .rnd _ _ | .drw _ _ _ | .ldVxDT _ | .ldDTVx _
  | .ldSTVx _ | .addIVx _ | .ldFVx _ | .ldBVx _ | .stRegs _ | .ldRegs _ => s.pc + 2

/-! ### A sprite on the screen -/

/-- The pixel `p` is one that a set bit of the sprite of `n` rows at I addresses, drawn at (V[x], V[y]): row `row`, column
`col`, most significant bit first, each coordinate wrapping on its own (43 R171, R176). -/
def SpriteCovers (s : State) (x y : Reg) (n : Nat) (p : Pixel) : Prop :=
  ∃ row < n, ∃ col < 8, (s.mem.read (ea s row)).getLsbD (7 - col) = true ∧
    p.1.val = ((s.getV x).toNat % 64 + col) % 64 ∧ p.2.val = ((s.getV y).toNat % 32 + row) % 32

/-! ### The invariant of reachable states -/

/-- A word is even: its address is 2-byte-aligned (10 R26). -/
def EvenWord (w : Word) : Prop := w[0] = false

/-- The record is one the state explains: it was raised by the word at pc, or by the fetch, and the condition it names
holds of the state still (60 R210, R212, R213). -/
def FaultRecord.Explained (r : FaultRecord) (s : State) : Prop :=
  r.pc = s.pc ∧
  match r.code with
  | .pcMisaligned => ¬ EvenWord s.pc ∧ r.opcode = none ∧ r.info = .none
  | .memoryOutOfRange =>
    (EvenWord s.pc ∧ 0x1000 ≤ s.pc.toNat ∧ r.opcode = none ∧ r.info = .address s.pc.toNat) ∨
    (∃ w, fetch s = .ok w ∧ r.opcode = some w ∧ r.info = .address 0x1000)
  | .stackOverflow  => s.sp = 16 ∧ (∃ w, fetch s = .ok w ∧ r.opcode = some w) ∧ r.info = .none
  | .stackUnderflow => s.sp = 0 ∧ (∃ w, fetch s = .ok w ∧ r.opcode = some w) ∧ r.info = .none
  | .keyOutOfRange  =>
    ∃ w x, fetch s = .ok w ∧ r.opcode = some w ∧ r.info = .key (s.getV x) ∧ 0xF < (s.getV x).toNat
  | .romTooLarge | .unknownOpcode => False

/-- What holds of every state a run reaches from reset: memory is in its canonical form; every call-stack entry is the
even address of an instruction inside memory (40 R102, 30 R82); pc is at most 0x10FE (10 R25, 40 R107); the core is
halted exactly when a record is held, and the state explains the record (10 R37, 60 R212). -/
structure State.Inv (s : State) : Prop where
  memory  : s.mem.wf = true
  stack   : ∀ k : Fin 16, EvenWord s.stack[k] ∧ s.stack[k].toNat ≤ 0xFFE
  pcBound : s.pc.toNat ≤ 0x10FE
  halt    : s.halted = s.fault.isSome
  record  : ∀ r, s.fault = some r → r.Explained s

end Sys2Proof.Machine
end

