-- ==== Sys2Proof/Certificates/Slice0/Obligations.lean ====
section
/-! DEFINITION. The statements for the provers, in the order of spec/'s files. `Completes`, `Raises`, `Frame` and the tables
of 10 R22, R25 and 60 R211 are in Safety.lean. -/

open Sys2Proof Sys2Proof.Machine

/-! ### Encoding (30_encoding.md) -/

/-- Every form is well formed, and decoding its word gives it back, with every operand at every value. -/
def Obligations.DecodeOfEncode : Prop :=
  ∀ i : Instr, i.WellFormed = true ∧ decodeWord (encode i) = .ok i

/-- A word that decodes is the word of the instruction it decodes to: no bit of it is dropped. -/
def Obligations.EncodeOfDecode : Prop :=
  ∀ (w : Word) (i : Instr), decodeWord w = .ok i → encode i = w

/-- 30 R86: a word that matches a row of the map decodes to an instruction of that row, so no word matches two rows; a word
that matches none is `Unknown`. (That no two rows match one word is the spec's own inference from the map.) -/
def Obligations.DecodeFollowsOpcodeMap : Prop :=
  ∀ w : Word,
    (∀ r ∈ opcodeRows, r.matches w = true → ∃ i, decodeWord w = .ok i ∧ i.row = r) ∧
    (recognized w = false → decodeWord w = .error (.unknownOpcode w))

/-- The unrecognized words by top nibble, which the spec infers from the map (30 R88; its counts are not stated here). -/
def Obligations.UnrecognizedByNibble : Prop :=
  ∀ w : Word, decodeWord w = .error (.unknownOpcode w) ↔
    (fieldOp w = 0x0 ∧ w ≠ 0x00E0 ∧ w ≠ 0x00EE) ∨
    (fieldOp w = 0x5 ∧ fieldN w ≠ 0) ∨
    (fieldOp w = 0x8 ∧ fieldN w ∈ [0x8, 0x9, 0xA, 0xB, 0xC, 0xD, 0xF]) ∨
    (fieldOp w = 0x9 ∧ fieldN w ≠ 0) ∨
    (fieldOp w = 0xE ∧ fieldNN w ∉ [0x9E, 0xA1]) ∨
    (fieldOp w = 0xF ∧ fieldNN w ∉ [0x07, 0x0A, 0x15, 0x18, 0x1E, 0x29, 0x33, 0x55, 0x65])

/-- An instruction's bytes, high byte first (20 R65), decode to it and to nothing of what follows them. -/
def Obligations.DecodeOfEncodedBytes : Prop :=
  ∀ (i : Instr) (rest : List Byte), decodeBytes (encodeBytes i ++ rest) = .ok (i, rest)

/-- A few words written out from the rows of the opcode table. -/
def Obligations.SampleWordsDecode : Prop :=
  decodeWord 0b0000_0000_1110_0000 = .ok .cls ∧
  decodeWord 0b0000_0000_1110_1110 = .ok .ret ∧
  decodeWord 0b0001_0010_0011_0100 = .ok (.jp 0x234) ∧
  decodeWord 0b0011_1010_1111_0101 = .ok (.seByte 10 0xF5) ∧
  decodeWord 0b1000_0001_0010_0111 = .ok (.subnReg 1 2) ∧
  decodeWord 0b1010_1100_0000_0001 = .ok (.ldI 0xC01) ∧
  decodeWord 0b1101_0011_0100_1111 = .ok (.drw 3 4 15) ∧
  decodeWord 0b1110_0110_1010_0001 = .ok (.sknp 6) ∧
  decodeWord 0b1111_1001_0101_0101 = .ok (.stRegs 9) ∧
  decodeWord 0b0101_0001_0010_0001 = .error (.unknownOpcode 0x5121)

/-- 30 R81, R82: the fetch checks in their order, and the fetched word, big-endian. -/
def Obligations.FetchReadsTheWordAtPc : Prop :=
  ∀ s : State,
    (s.pc[0] = true → fetch s = .error .pcMisaligned) ∧
    (s.pc[0] = false → 0xFFE < s.pc.toNat → fetch s = .error (.memoryOutOfRange s.pc.toNat)) ∧
    (s.pc[0] = false → s.pc.toNat ≤ 0xFFE →
      ∃ w, fetch s = .ok w ∧
        w.toNat = 256 * (s.mem.read s.pc.toNat).toNat + (s.mem.read (s.pc.toNat + 1)).toNat)

/-! ### The step (30 R80, R93; 60 R212–R214) -/

/-- A step runs the decoded instruction: with no transaction scheduled before it (the model's own field, log entry 2) and
the core not halted, the machine's
step is `exec` of the instruction that the word at pc decodes to, and nothing besides. -/
def Obligations.StepRunsTheDecodedInstruction : Prop :=
  ∀ (s : State) (w : Word) (i : Instr),
    s.schedule = [] → s.halted = false → fetch s = .ok w → decodeWord w = .ok i →
      step s = exec i s ∧ stepOutput s = .status (instrStatus i s)

/-- 30 R93 (decision D14): an unrecognized opcode is reported with its address and only pc changes, by 2. -/
def Obligations.UnknownOpcodeIsReportedAndSkipped : Prop :=
  ∀ (s : State) (w : Word),
    s.schedule = [] → s.halted = false → fetch s = .ok w → recognized w = false →
      stepOutput s = .status (some (.unknown w s.pc)) ∧
      ∃ t, step s = .next t ∧ t.pc = s.pc + 2 ∧ Frame [] [.pc] noBytes s t

/-- A fetch that fails halts the core with a record that holds no opcode and changes nothing else; an odd pc is
`PcMisaligned` even outside memory (30 R82; decisions D6, D13). -/
def Obligations.FailedFetchHalts : Prop :=
  ∀ s : State, s.schedule = [] → s.halted = false →
    (s.pc[0] = true →
      ∃ t r, step s = .next t ∧ r = { code := .pcMisaligned, pc := s.pc, opcode := none, info := .none } ∧
        t.halted = true ∧ t.fault = some r ∧ Frame [] [.halted, .fault] noBytes s t ∧
        stepOutput s = .status (some (.fault r))) ∧
    (s.pc[0] = false → 0x1000 ≤ s.pc.toNat →
      ∃ t r, step s = .next t ∧
        r = { code := .memoryOutOfRange, pc := s.pc, opcode := none, info := .address s.pc.toNat } ∧
        t.halted = true ∧ t.fault = some r ∧ Frame [] [.halted, .fault] noBytes s t ∧
        stepOutput s = .status (some (.fault r)))

/-- 60 R214 (decision D11): a halted core executes nothing; `set_keys` and `draw_ack` still take effect; `reset` and a successful `load`
clear `halted` and `fault`. -/
def Obligations.HaltedCoreExecutesNothing : Prop :=
  ∀ s : State, s.halted = true →
    (transact .step s = .next s ∧ txnOutput .step s = .status (some (.halted s.fault))) ∧
    (transact .tick s = .next s ∧ txnOutput .tick s = .tone false) ∧
    (∀ k, ∃ t, transact (.setKeys k) s = .next t ∧ t.key = k ∧ Frame [] [.key] noBytes s t) ∧
    (∃ t, transact .drawAck s = .next t ∧ t.draw = false ∧ Frame [] [.draw] noBytes s t) ∧
    (∃ t, transact .reset s = .next t ∧ t.halted = false ∧ t.fault = none) ∧
    (∀ bs, bs.length ≤ 3584 → ∃ t, transact (.load bs) s = .next t ∧ t.halted = false ∧ t.fault = none)

/-- No instruction and no transaction stops the machine, in any state: each answers a next state. That a fatal condition
is a next state and not a stop of the model is the model's form (log entry 5). -/
def Obligations.EveryTransactionAnswers : Prop :=
  (∀ (i : Instr) (s : State), ∃ t, exec i s = .next t) ∧
  (∀ (τ : Txn) (s : State), ∃ t, transact τ s = .next t) ∧
  (∀ s : State, ∃ t, step s = .next t)

/-! ### Control flow (40_control_flow.md) -/

/-- 40 R100, 00EE: StackUnderflow when sp = 0, else sp − 1 and pc = stack[sp − 1] + 2; the entry is kept (10 R29). -/
def Obligations.ReturnPops : Prop :=
  ∀ s : State,
    (s.sp = 0 → Raises .ret s .stackUnderflow .none) ∧
    (∀ k : Fin 16, s.sp.val = k.val + 1 →
      Completes .ret s [] [.pc, .sp] noBytes fun t => t.sp.val = k.val ∧ t.pc = s.stack[k] + 2)

/-- 40 R101 and R107, 1NNN and BNNN: pc = nnn, and pc = nnn + V[0] with no wrap. -/
def Obligations.JumpsSetPc : Prop :=
  ∀ (nnn : Addr12) (s : State),
    (Completes (.jp nnn) s [] [.pc] noBytes fun t => t.pc.toNat = nnn.toNat) ∧
    (Completes (.jpV0 nnn) s [] [.pc] noBytes fun t => t.pc.toNat = nnn.toNat + (s.getV 0).toNat)

/-- 40 R102, 2NNN: StackOverflow when sp = 16, else the address of this instruction is pushed and pc = nnn. -/
def Obligations.CallPushes : Prop :=
  ∀ (nnn : Addr12) (s : State),
    (s.sp = 16 → Raises (.call nnn) s .stackOverflow .none) ∧
    (∀ k : Fin 16, s.sp.val = k.val →
      Completes (.call nnn) s [] [.pc, .sp, .stack] noBytes fun t =>
        t.sp.val = k.val + 1 ∧ t.stack[k] = s.pc ∧ (∀ j : Fin 16, j ≠ k → t.stack[j] = s.stack[j]) ∧
        t.pc.toNat = nnn.toNat)

/-- 40 R103, R104, 3XNN and 4XNN. -/
def Obligations.SkipsComparingAnImmediate : Prop :=
  ∀ (x : Reg) (nn : Byte) (s : State),
    (Completes (.seByte x nn) s [] [.pc] noBytes fun t => t.pc = if s.getV x = nn then s.pc + 4 else s.pc + 2) ∧
    (Completes (.sneByte x nn) s [] [.pc] noBytes fun t => t.pc = if s.getV x = nn then s.pc + 2 else s.pc + 4)

/-- 40 R105, R106, 5XY0 and 9XY0, x = y included. -/
def Obligations.SkipsComparingRegisters : Prop :=
  ∀ (x y : Reg) (s : State),
    (Completes (.seReg x y) s [] [.pc] noBytes fun t =>
      t.pc = if s.getV x = s.getV y then s.pc + 4 else s.pc + 2) ∧
    (Completes (.sneReg x y) s [] [.pc] noBytes fun t =>
      t.pc = if s.getV x = s.getV y then s.pc + 2 else s.pc + 4)

/-- 2NNN and then 00EE, with nothing between: pc is the call's address plus 2, sp is as before the call, and so
is every stack entry but the one at sp, which the call wrote. -/
def Obligations.CallThenReturn : Prop :=
  ∀ (nnn : Addr12) (s : State), s.sp.val < 16 →
    ∃ t u, exec (.call nnn) s = .next t ∧ exec .ret t = .next u ∧
      u.pc = s.pc + 2 ∧ u.sp = s.sp ∧ (∀ j : Fin 16, j.val ≠ s.sp.val → u.stack[j] = s.stack[j]) ∧
      Frame [] [.pc, .stack] noBytes s u

/-! ### Registers and arithmetic (41_registers_alu.md) -/

/-- 41 R121, R122, R123, 6XNN, 7XNN and 8XY0: no flag, VF included only as a destination. -/
def Obligations.LoadsAndImmediateAdd : Prop :=
  ∀ (x y : Reg) (nn : Byte) (s : State),
    (Completes (.ldByte x nn) s [x] [.pc] noBytes fun t => t.getV x = nn ∧ t.pc = s.pc + 2) ∧
    (Completes (.addByte x nn) s [x] [.pc] noBytes fun t =>
      (t.getV x).toNat = ((s.getV x).toNat + nn.toNat) % 256 ∧ t.pc = s.pc + 2) ∧
    (Completes (.ldReg x y) s [x] [.pc] noBytes fun t => t.getV x = s.getV y ∧ t.pc = s.pc + 2)

/-- 41 R124, R125, R126, 8XY1, 8XY2 and 8XY3, bit by bit; VF is not reset. -/
def Obligations.LogicOperations : Prop :=
  ∀ (x y : Reg) (s : State),
    (Completes (.orReg x y) s [x] [.pc] noBytes fun t =>
      (∀ k < 8, (t.getV x).getLsbD k = ((s.getV x).getLsbD k || (s.getV y).getLsbD k)) ∧ t.pc = s.pc + 2) ∧
    (Completes (.andReg x y) s [x] [.pc] noBytes fun t =>
      (∀ k < 8, (t.getV x).getLsbD k = ((s.getV x).getLsbD k && (s.getV y).getLsbD k)) ∧ t.pc = s.pc + 2) ∧
    (Completes (.xorReg x y) s [x] [.pc] noBytes fun t =>
      (∀ k < 8, (t.getV x).getLsbD k = ((s.getV x).getLsbD k ^^ (s.getV y).getLsbD k)) ∧ t.pc = s.pc + 2)

/-- 41 R127, 8XY4, x or y = 0xF included: V[x] is the sum modulo 256, and VF the carry unless it is V[x]
(decision D3). -/
def Obligations.AddWithCarry : Prop :=
  ∀ (x y : Reg) (s : State),
    Completes (.addReg x y) s [vF, x] [.pc] noBytes fun t =>
      (t.getV x).toNat = ((s.getV x).toNat + (s.getV y).toNat) % 256 ∧
      (x ≠ vF → t.getV vF = if 255 < (s.getV x).toNat + (s.getV y).toNat then 1 else 0) ∧
      t.pc = s.pc + 2

/-- 41 R128, 8XY5: `f` is the flag; an operand that is VF is read after VF was written, so it is `f`
(decision D3). -/
def Obligations.SubtractWithBorrowFlag : Prop :=
  ∀ (x y : Reg) (s : State) (f a b : Nat),
    f = (if (s.getV x).toNat < (s.getV y).toNat then 0 else 1) →
    a = (if x = vF then f else (s.getV x).toNat) → b = (if y = vF then f else (s.getV y).toNat) →
    Completes (.subReg x y) s [vF, x] [.pc] noBytes fun t =>
      (t.getV x).toNat = (a + 256 - b) % 256 ∧ (x ≠ vF → (t.getV vF).toNat = f) ∧ t.pc = s.pc + 2

/-- 41 R130, 8XY7: as 8XY5 with the operands exchanged (decision D3). -/
def Obligations.ReverseSubtractWithBorrowFlag : Prop :=
  ∀ (x y : Reg) (s : State) (f a b : Nat),
    f = (if (s.getV y).toNat < (s.getV x).toNat then 0 else 1) →
    a = (if x = vF then f else (s.getV x).toNat) → b = (if y = vF then f else (s.getV y).toNat) →
    Completes (.subnReg x y) s [vF, x] [.pc] noBytes fun t =>
      (t.getV x).toNat = (b + 256 - a) % 256 ∧ (x ≠ vF → (t.getV vF).toNat = f) ∧ t.pc = s.pc + 2

/-- 41 R129, R131, 8XY6 and 8XYE, for every y: VF is the bit shifted out; with x = 0xF the flag itself is shifted
(decisions D3, D25). -/
def Obligations.ShiftsByOne : Prop :=
  ∀ (x y : Reg) (s : State),
    (Completes (.shr x y) s [vF, x] [.pc] noBytes fun t =>
      (x ≠ vF → (t.getV x).toNat = (s.getV x).toNat / 2 ∧ (t.getV vF).toNat = (s.getV x).toNat % 2) ∧
      (x = vF → t.getV vF = 0) ∧ t.pc = s.pc + 2) ∧
    (Completes (.shl x y) s [vF, x] [.pc] noBytes fun t =>
      (x ≠ vF → (t.getV x).toNat = 2 * (s.getV x).toNat % 256 ∧ (t.getV vF).toNat = (s.getV x).toNat / 128) ∧
      (x = vF → (t.getV vF).toNat = 2 * ((s.getV x).toNat / 128)) ∧ t.pc = s.pc + 2)

/-- 41 R132, CXNN: V[x] is the draw AND nn. The draw is the free value `Config.rand`, one per CXNN, counted by the
model's own field `draws` (log entry 1); no flag. -/
def Obligations.RandomAndImmediate : Prop :=
  ∀ (x : Reg) (nn : Byte) (s : State),
    Completes (.rnd x nn) s [x] [.pc, .draws] noBytes fun t =>
      (∀ k < 8, (t.getV x).getLsbD k = ((Config.rand s.draws).getLsbD k && nn.getLsbD k)) ∧
      t.draws = s.draws + 1 ∧ t.pc = s.pc + 2

/-! ### The index register and memory (42_index_memory.md, 20_memory.md) -/

/-- 42 R150, R151, R152, ANNN, FX1E and FX29: I = nnn; I + V[x] modulo 2^16 with no flag (decision D5); 5·V[x], unmasked
(decision D26). -/
def Obligations.IndexRegisterLoads : Prop :=
  ∀ (nnn : Addr12) (x : Reg) (s : State),
    (Completes (.ldI nnn) s [] [.i, .pc] noBytes fun t => t.i.toNat = nnn.toNat ∧ t.pc = s.pc + 2) ∧
    (Completes (.addIVx x) s [] [.i, .pc] noBytes fun t =>
      t.i.toNat = (s.i.toNat + (s.getV x).toNat) % 65536 ∧ t.pc = s.pc + 2) ∧
    (Completes (.ldFVx x) s [] [.i, .pc] noBytes fun t => t.i.toNat = 5 * (s.getV x).toNat ∧ t.pc = s.pc + 2)

/-- 42 R153, FX33, with 20 R64: the digits at EA(0), EA(1), EA(2), EA(k) = I mod 4096 + k; or MemoryOutOfRange with the
first EA(k) above 0xFFF and no byte written. -/
def Obligations.StoreDecimalDigits : Prop :=
  ∀ (x : Reg) (s : State), s.mem.wf = true →
    (ea s 2 ≤ 0xFFF →
      Completes (.ldBVx x) s [] [.pc] (bytesAt (ea s 0) 3) fun t =>
        (t.mem.read (ea s 0)).toNat = (s.getV x).toNat / 100 ∧
        (t.mem.read (ea s 1)).toNat = (s.getV x).toNat / 10 % 10 ∧
        (t.mem.read (ea s 2)).toNat = (s.getV x).toNat % 10 ∧ t.pc = s.pc + 2) ∧
    (∀ k ≤ 2, 0xFFF < ea s k → (∀ j < k, ea s j ≤ 0xFFF) →
      Raises (.ldBVx x) s .memoryOutOfRange (.address (ea s k)))

/-- 42 R154, FX55: V[0]..V[x] at EA(0)..EA(x), I unchanged; or MemoryOutOfRange and no byte written. -/
def Obligations.StoreRegisters : Prop :=
  ∀ (x : Reg) (s : State), s.mem.wf = true →
    (ea s x.val ≤ 0xFFF →
      Completes (.stRegs x) s [] [.pc] (bytesAt (ea s 0) (x.val + 1)) fun t =>
        (∀ k : Reg, k ≤ x → t.mem.read (ea s k.val) = s.getV k) ∧ t.pc = s.pc + 2) ∧
    (∀ k ≤ x.val, 0xFFF < ea s k → (∀ j < k, ea s j ≤ 0xFFF) →
      Raises (.stRegs x) s .memoryOutOfRange (.address (ea s k)))

/-- 42 R155, FX65: V[0]..V[x] from EA(0)..EA(x), I unchanged; or MemoryOutOfRange and no register written. -/
def Obligations.LoadRegisters : Prop :=
  ∀ (x : Reg) (s : State),
    (ea s x.val ≤ 0xFFF →
      Completes (.ldRegs x) s (regsTo x) [.pc] noBytes fun t =>
        (∀ k : Reg, k ≤ x → t.getV k = s.mem.read (ea s k.val)) ∧ t.pc = s.pc + 2) ∧
    (∀ k ≤ x.val, 0xFFF < ea s k → (∀ j < k, ea s j ≤ 0xFFF) →
      Raises (.ldRegs x) s .memoryOutOfRange (.address (ea s k)))

/-- 20 R64, the I-based effective address: I mod 4096 plus the offset, never wrapped; above 0xFFF both accesses raise
MemoryOutOfRange with it, and otherwise neither does (decision D4). -/
def Obligations.EffectiveAddress : Prop :=
  ∀ (s : State) (k : Nat) (b : Byte),
    ea s k = s.i.toNat % 4096 + k ∧
    (0xFFF < ea s k → memRead s.mem (ea s k) = .error (.memoryOutOfRange (ea s k)) ∧
      memWrite s.mem (ea s k) b = .error (.memoryOutOfRange (ea s k))) ∧
    (ea s k ≤ 0xFFF → memRead s.mem (ea s k) = .ok (s.mem.read (ea s k)) ∧
      memWrite s.mem (ea s k) b = .ok (s.mem.write (ea s k) b))

/-- Memory in its canonical form: a write is read back, every other address is as before, and the form is kept. -/
def Obligations.MemoryReadsLastWrite : Prop :=
  ∀ (m : Memory) (a : Nat) (b : Byte), m.wf = true → a ≤ 0xFFF →
    (m.write a b).wf = true ∧ (m.write a b).read a = b ∧ ∀ q, q ≠ a → (m.write a b).read q = m.read q

/-- 20 R72: two bytes that FX55 stored are the word that every later fetch from their address reads, as long as memory
is not written again. -/
def Obligations.StoreIsSeenByFetch : Prop :=
  ∀ (x : Reg) (s t u : State) (k : Nat) (hk : k + 1 < 16),
    s.mem.wf = true → ea s x.val ≤ 0xFFF → exec (.stRegs x) s = .next t → k + 1 ≤ x.val →
    u.mem = t.mem → u.pc.toNat = ea s k → u.pc[0] = false →
      fetch u = .ok (wordOfBytes (s.getV ⟨k, by omega⟩) (s.getV ⟨k + 1, hk⟩))

/-! ### The display (43_display.md) -/

/-- 43 R170, 00E0: every pixel clear, the draw flag set, whatever they were. -/
def Obligations.ClearScreen : Prop :=
  ∀ s : State,
    Completes .cls s [] [.fb, .draw, .pc] noBytes fun t =>
      (∀ p : Pixel, pixelOf t.fb p = false) ∧ t.draw = true ∧ t.pc = s.pc + 2

/-- 43 R171, R173, R176, DXYN: the pixels the sprite's set bits address are flipped and no other; VF is 1 exactly when one
of them was set; the draw flag is set; or MemoryOutOfRange with the first EA(row) above 0xFFF and nothing drawn. -/
def Obligations.DrawFlipsTheSprite : Prop :=
  ∀ (x y : Reg) (n : BitVec 4) (s : State),
    (ea s 0 + n.toNat ≤ 0x1000 →
      Completes (.drw x y n) s [vF] [.fb, .draw, .pc] noBytes fun t =>
        (∀ p : Pixel, SpriteCovers s x y n.toNat p → pixelOf t.fb p = !pixelOf s.fb p) ∧
        (∀ p : Pixel, ¬ SpriteCovers s x y n.toNat p → pixelOf t.fb p = pixelOf s.fb p) ∧
        ((∃ p, SpriteCovers s x y n.toNat p ∧ pixelOf s.fb p = true) → t.getV vF = 1) ∧
        ((∀ p, SpriteCovers s x y n.toNat p → pixelOf s.fb p = false) → t.getV vF = 0) ∧
        t.draw = true ∧ t.pc = s.pc + 2) ∧
    (∀ row < n.toNat, 0xFFF < ea s row → (∀ j < row, ea s j ≤ 0xFFF) →
      Raises (.drw x y n) s .memoryOutOfRange (.address (ea s row)))

/-- 43 R172, DXYN with n = 0: no pixel, VF = 0, the draw flag set, and no fault whatever I holds (decision
D10). -/
def Obligations.DrawOfNoRows : Prop :=
  ∀ (x y : Reg) (s : State),
    Completes (.drw x y 0) s [vF] [.draw, .pc] noBytes fun t => t.getV vF = 0 ∧ t.draw = true ∧ t.pc = s.pc + 2

/-- The spec's own inference 43 R177: within one sprite no pixel is addressed twice, so every order of them gives the same screen and the same
collision result. -/
def Obligations.SpritePixelsAreDistinct : Prop :=
  ∀ (fb : Framebuffer) (x0 y0 : Nat) (bs : List Byte), bs.length ≤ 15 →
    (spritePixels x0 y0 0 bs).Nodup ∧
    ∀ ps, ps.Perm (spritePixels x0 y0 0 bs) → blit fb ps = blit fb (spritePixels x0 y0 0 bs)

/-- A sprite drawn twice at the same place erases itself: the screen is as before, and the second draw collides exactly
when the sprite covers a pixel that was clear before the first. -/
def Obligations.DrawTwiceErases : Prop :=
  ∀ (x y : Reg) (n : BitVec 4) (s t u : State),
    x ≠ vF → y ≠ vF → ea s 0 + n.toNat ≤ 0x1000 →
    exec (.drw x y n) s = .next t → exec (.drw x y n) t = .next u →
      u.fb = s.fb ∧ (u.getV vF = 1 ↔ ∃ p, SpriteCovers s x y n.toNat p ∧ pixelOf s.fb p = false)

/-! ### Keys and timers (44_keys_timers.md, 60_exceptions.md) -/

/-- 44 R190, R191, R196, EX9E and EXA1: KeyOutOfRange when V[x] > 0xF (decision D7), else the skip by the
key. -/
def Obligations.KeySkips : Prop :=
  ∀ (x : Reg) (s : State),
    ((s.getV x).toNat ≤ 0xF →
      (Completes (.skp x) s [] [.pc] noBytes fun t =>
        t.pc = if s.key.getLsbD (s.getV x).toNat = true then s.pc + 4 else s.pc + 2) ∧
      (Completes (.sknp x) s [] [.pc] noBytes fun t =>
        t.pc = if s.key.getLsbD (s.getV x).toNat = true then s.pc + 2 else s.pc + 4)) ∧
    (0xF < (s.getV x).toNat →
      Raises (.skp x) s .keyOutOfRange (.key (s.getV x)) ∧ Raises (.sknp x) s .keyOutOfRange (.key (s.getV x)))

/-- 44 R192, R194, R195, FX07, FX15 and FX18. -/
def Obligations.TimerMoves : Prop :=
  ∀ (x : Reg) (s : State),
    (Completes (.ldVxDT x) s [x] [.pc] noBytes fun t => t.getV x = s.delay ∧ t.pc = s.pc + 2) ∧
    (Completes (.ldDTVx x) s [] [.delay, .pc] noBytes fun t => t.delay = s.getV x ∧ t.pc = s.pc + 2) ∧
    (Completes (.ldSTVx x) s [] [.sound, .pc] noBytes fun t => t.sound = s.getV x ∧ t.pc = s.pc + 2)

/-- 44 R193, FX0A: with no key pressed nothing changes and the status is Waiting; else V[x] is the lowest-indexed pressed
key and the status Executed. -/
def Obligations.WaitForKey : Prop :=
  ∀ (x : Reg) (s : State), s.halted = false →
    ((∀ j < 16, s.key.getLsbD j = false) →
      exec (.ldVxK x) s = .next s ∧ instrStatus (.ldVxK x) s = some .waiting) ∧
    (∀ k < 16, s.key.getLsbD k = true → (∀ j < k, s.key.getLsbD j = false) →
      (Completes (.ldVxK x) s [x] [.pc] noBytes fun t => (t.getV x).toNat = k ∧ t.pc = s.pc + 2) ∧
      instrStatus (.ldVxK x) s = some .executed)

/-- 60 R230, R231: a tick counts each timer down by one, never below 0, writes nothing else, and emits the tone event
exactly when it takes `sound` from 1 to 0; a halted core's tick does nothing; no other transaction emits the event (decision
D18). -/
def Obligations.TickCountsDown : Prop :=
  ∀ s : State,
    (s.halted = false →
      (∃ t, transact .tick s = .next t ∧
        t.delay.toNat = s.delay.toNat - 1 ∧ t.sound.toNat = s.sound.toNat - 1 ∧
        Frame [] [.delay, .sound] noBytes s t) ∧
      (txnOutput .tick s = .tone true ↔ s.sound.toNat = 1) ∧
      (txnOutput .tick s = .tone false ↔ s.sound.toNat ≠ 1)) ∧
    (s.halted = true → transact .tick s = .next s ∧ txnOutput .tick s = .tone false) ∧
    (∀ τ b, txnOutput τ s = .tone b → τ = .tick)

/-! ### Fatal conditions (60_exceptions.md) -/

/-- 60 R212 (decision D11): a step that halts the core has no other effect: the state is the one before it plus `halted` and `fault`; the
record holds the address of the instruction and, where one was fetched, its opcode; the step's status is that record. -/
def Obligations.FatalConditionsArePrecise : Prop :=
  ∀ s t : State, s.halted = false → transact .step s = .next t → t.halted = true →
    ∃ r, t = { s with halted := true, fault := some r } ∧ r.pc = s.pc ∧ r.code.fatal = true ∧
      (∀ w, fetch s = .ok w → r.opcode = some w) ∧ (∀ c, fetch s = .error c → r.opcode = none) ∧
      txnOutput .step s = .status (some (.fault r))

/-- The spec's own inference 60 R211: which instruction can raise which condition; no instruction raises two, and the others none. The fetch checks
come before decode: a fetch that fails is what the step raises. -/
def Obligations.WhichConditionAnInstructionRaises : Prop :=
  (∀ (i : Instr) (s t : State), s.halted = false → exec i s = .next t → t.halted = true →
    ∃ r, t.fault = some r ∧ mayRaise i = some r.code) ∧
  (∀ (s : State) (c : Raised), s.halted = false → fetch s = .error c →
    transact .step s = .next (takeFatal c none s) ∧ c.condition ∈ [.pcMisaligned, .memoryOutOfRange])

/-- A halted core runs again only by `reset` or a successful `load` (10 R37, 60 R219). -/
def Obligations.OnlyResetAndLoadEndAHalt : Prop :=
  ∀ (τ : Txn) (s t : State), s.halted = true → transact τ s = .next t → t.halted = false →
    τ = .reset ∨ ∃ bs, τ = .load bs ∧ bs.length ≤ 3584

/-! ### What an instruction writes and reads (10_state.md) -/

/-- Every instruction writes only the V registers that 10 R22 lists for it, the other state its rule names, and the bytes
it stores; one that raises writes `halted` and `fault` alone. -/
def Obligations.InstructionsWriteOnlyTheirOwn : Prop :=
  ∀ (i : Instr) (s t : State), s.mem.wf = true → s.halted = false → exec i s = .next t →
    (t.halted = false → Frame (writesV i) (writesParts i) (stores i s) s t) ∧
    (t.halted = true → Frame [] [.halted, .fault] noBytes s t)

/-- The new pc of every instruction that raises nothing is that of the table of 10 R25. -/
def Obligations.PcFollowsTheTable : Prop :=
  ∀ (i : Instr) (s t : State), s.halted = false → exec i s = .next t → t.halted = false → t.pc = pcAfter i s

/-- A V register that 10 R22 does not list as read by an instruction does not affect what it does: with that register
changed beforehand, nothing but that register can differ after it, and it either was written the same or not at all. -/
def Obligations.UnreadRegistersDoNotMatter : Prop :=
  ∀ (i : Instr) (s t : State) (r : Reg) (b : Byte), r ∉ readsV i → exec i s = .next t →
    ∃ u, exec i (s.setV r b) = .next u ∧ Frame [r] [] noBytes t u ∧
      (u.getV r = t.getV r ∨ (u.getV r = b ∧ t.getV r = s.getV r))

/-- The keys are read by EX9E, EXA1 and FX0A alone, the delay timer by FX07 alone, and the sound timer by no instruction
(10 R30, R31, R34): for every other instruction, different ones before it change nothing after it but themselves. -/
def Obligations.KeysAndTimersAreReadOnlyByTheirInstructions : Prop :=
  ∀ (i : Instr) (s t : State), exec i s = .next t →
    (∀ k : BitVec 16, (∀ x, i ≠ .skp x ∧ i ≠ .sknp x ∧ i ≠ .ldVxK x) →
      exec i { s with key := k } = .next { t with key := k }) ∧
    (∀ d : Byte, (∀ x, i ≠ .ldVxDT x) → ∃ u, exec i { s with delay := d } = .next u ∧ Frame [] [.delay] noBytes t u) ∧
    (∀ d : Byte, ∃ u, exec i { s with sound := d } = .next u ∧ Frame [] [.sound] noBytes t u)

/-! ### Reset, load and the host interface (70_reset_and_hazards.md) -/

/-- 70 R250: what `reset` leaves, from any state. The font bytes are the parameter FONTSET. -/
def Obligations.ResetLeaves : Prop :=
  ∀ s : State, ∃ t, transact .reset s = .next t ∧
    t.pc = 0x200 ∧ t.sp = 0 ∧ t.i = 0 ∧ (∀ r, t.getV r = 0) ∧ (∀ k : Fin 16, t.stack[k] = 0) ∧
    t.delay = 0 ∧ t.sound = 0 ∧ (∀ p : Pixel, pixelOf t.fb p = false) ∧ t.draw = true ∧ t.key = 0 ∧
    t.halted = false ∧ t.fault = none ∧
    (∀ k : Fin 80, t.mem.read k.val = Config.fontset[k]) ∧ (∀ a, 80 ≤ a → t.mem.read a = 0)

/-- The spec's own summary 10 R41: the reset value of every element, at the machine's reset state. -/
def Obligations.ResetStateValues : Prop :=
  State.reset.pc = 0x200 ∧ State.reset.sp = 0 ∧ State.reset.i = 0 ∧ (∀ r, State.reset.getV r = 0) ∧
  (∀ k : Fin 16, State.reset.stack[k] = 0) ∧ State.reset.delay = 0 ∧ State.reset.sound = 0 ∧
  (∀ p : Pixel, pixelOf State.reset.fb p = false) ∧ State.reset.draw = true ∧ State.reset.key = 0 ∧
  State.reset.halted = false ∧ State.reset.fault = none ∧
  (∀ k : Fin 80, State.reset.mem.read k.val = Config.fontset[k]) ∧ (∀ a, 80 ≤ a → State.reset.mem.read a = 0)

/-- 70 R253, R254: `load` of at most 3584 bytes resets and copies them to 0x200 and up, zero past their end; of more, it
answers RomTooLarge and changes nothing (decision D15). -/
def Obligations.LoadCopiesTheRom : Prop :=
  ∀ (bs : List Byte) (s : State),
    (bs.length ≤ 3584 → txnOutput (.load bs) s = .load .ok ∧
      ∃ r t, transact .reset s = .next r ∧ transact (.load bs) s = .next t ∧ t.mem.wf = true ∧
        Frame [] [] (bytesAt 0x200 bs.length) r t ∧ ∀ j < bs.length, t.mem.read (0x200 + j) = bs.getD j 0) ∧
    (3584 < bs.length → txnOutput (.load bs) s = .load (.romTooLarge bs.length) ∧ transact (.load bs) s = .next s)

/-- `set_keys` writes the 16 keys and `draw_ack` clears the draw flag, and nothing else, halted or not (10 R33, R34). -/
def Obligations.KeysAndDrawAcknowledge : Prop :=
  ∀ s : State,
    (∀ k, ∃ t, transact (.setKeys k) s = .next t ∧ (∀ j < 16, t.key.getLsbD j = k.getLsbD j) ∧
      Frame [] [.key] noBytes s t) ∧
    (∃ t, transact .drawAck s = .next t ∧ t.draw = false ∧ Frame [] [.draw] noBytes s t)

/-- 70 R264: a step at an idle or a waiting end state changes nothing. -/
def Obligations.IdleAndWaitingRepeat : Prop :=
  ∀ s : State,
    (Idle s → transact .step s = .next s ∧ txnOutput .step s = .status (some .executed)) ∧
    (Waiting s → transact .step s = .next s ∧ txnOutput .step s = .status (some .waiting))

/-- The machine's runs are all interleavings: with a list of transactions as its schedule (the model's own field, log
entry 2), its steps are those transactions in order, whatever they are. -/
def Obligations.ScheduleGivesEveryInterleaving : Prop :=
  ∀ (τs : List Txn) (s t : State), s.schedule = [] → runTxns τs s = .next t →
    Host.Core.run core τs.length { s with schedule := τs } = .next t

/-! ### The invariant -/

/-- The reset state meets the invariant of Safety.lean. -/
def Obligations.InvariantAtReset : Prop := State.reset.Inv

/-- Every transaction, and so every step of the machine, keeps the invariant: memory canonical, call-stack entries even
addresses inside memory, pc at most 0x10FE, and a halted core's record explained by its state. -/
def Obligations.InvariantIsKept : Prop :=
  (∀ (τ : Txn) (s t : State), s.Inv → transact τ s = .next t → t.Inv) ∧
  (∀ s t : State, s.Inv → step s = .next t → t.Inv)
end

