-- ==== Sys2Proof/Laws/Encoding.lean ====
section
/-! SUPPORT. The fields of an encoded word, and the word made of its own fields (spec/30_encoding.md R84, R85). -/

namespace Sys2Proof

@[simp] theorem fieldOp_encodeA (op : BitVec 4) (nnn : Addr12) : fieldOp (encodeA op nnn) = op := by
  unfold fieldOp encodeA; ext i hi; interval_cases i <;> simp

@[simp] theorem fieldNNN_encodeA (op : BitVec 4) (nnn : Addr12) : fieldNNN (encodeA op nnn) = nnn := by
  unfold fieldNNN encodeA; ext i hi; interval_cases i <;> simp

@[simp] theorem fieldOp_encodeXB (op : BitVec 4) (x : Reg) (nn : Byte) : fieldOp (encodeXB op x nn) = op := by
  unfold fieldOp encodeXB; ext i hi; interval_cases i <;> simp

@[simp] theorem fieldX_encodeXB (op : BitVec 4) (x : Reg) (nn : Byte) : fieldX (encodeXB op x nn) = x := by
  have h : (encodeXB op x nn).extractLsb' 8 4 = regBits x := by
    unfold encodeXB; ext i hi; interval_cases i <;> simp
  exact congrArg BitVec.toFin h

@[simp] theorem fieldNN_encodeXB (op : BitVec 4) (x : Reg) (nn : Byte) : fieldNN (encodeXB op x nn) = nn := by
  unfold fieldNN encodeXB; ext i hi; interval_cases i <;> simp

@[simp] theorem fieldOp_encodeXYN (op : BitVec 4) (x y : Reg) (n : BitVec 4) : fieldOp (encodeXYN op x y n) = op := by
  unfold fieldOp encodeXYN; ext i hi; interval_cases i <;> simp

@[simp] theorem fieldX_encodeXYN (op : BitVec 4) (x y : Reg) (n : BitVec 4) : fieldX (encodeXYN op x y n) = x := by
  have h : (encodeXYN op x y n).extractLsb' 8 4 = regBits x := by
    unfold encodeXYN; ext i hi; interval_cases i <;> simp
  exact congrArg BitVec.toFin h

@[simp] theorem fieldY_encodeXYN (op : BitVec 4) (x y : Reg) (n : BitVec 4) : fieldY (encodeXYN op x y n) = y := by
  have h : (encodeXYN op x y n).extractLsb' 4 4 = regBits y := by
    unfold encodeXYN; ext i hi; interval_cases i <;> simp
  exact congrArg BitVec.toFin h

@[simp] theorem fieldN_encodeXYN (op : BitVec 4) (x y : Reg) (n : BitVec 4) : fieldN (encodeXYN op x y n) = n := by
  unfold fieldN encodeXYN; ext i hi; interval_cases i <;> simp
/-- A word is the FA format of its fields. -/
theorem encodeA_fields (w : Word) : encodeA (fieldOp w) (fieldNNN w) = w := by
  unfold encodeA fieldOp fieldNNN; ext i hi; interval_cases i <;> simp

/-- A word is the FXB format of its fields. -/
theorem encodeXB_fields (w : Word) : encodeXB (fieldOp w) (fieldX w) (fieldNN w) = w := by
  have hx : regBits (fieldX w) = w.extractLsb' 8 4 := rfl
  unfold encodeXB; rw [hx]; unfold fieldOp fieldNN; ext i hi; interval_cases i <;> simp

/-- A word is the FXYN format of its fields. -/
theorem encodeXYN_fields (w : Word) : encodeXYN (fieldOp w) (fieldX w) (fieldY w) (fieldN w) = w := by
  have hx : regBits (fieldX w) = w.extractLsb' 8 4 := rfl
  have hy : regBits (fieldY w) = w.extractLsb' 4 4 := rfl
  unfold encodeXYN; rw [hx, hy]; unfold fieldOp fieldN; ext i hi; interval_cases i <;> simp

/-- The number a fetched word is: the byte at pc in bits 15:8 (20 R65). -/
theorem wordOfBytes_toNat (hi lo : Byte) : (wordOfBytes hi lo).toNat = 256 * hi.toNat + lo.toNat := by
  have h1 := hi.isLt
  have h2 := lo.isLt
  simp only [wordOfBytes, BitVec.toNat_or, BitVec.toNat_shiftLeft, BitVec.toNat_setWidth]
  rw [Nat.mod_eq_of_lt (by omega : hi.toNat < 2 ^ 16), Nat.mod_eq_of_lt (by omega : lo.toNat < 2 ^ 16),
    Nat.shiftLeft_eq, Nat.mod_eq_of_lt (by omega), Nat.mul_comm, show (2 : Nat) ^ 8 = 256 from rfl]
  exact (Nat.two_pow_add_eq_or_of_lt (i := 8) h2 hi.toNat).symm

/-- Every form is well formed. -/
theorem wellFormed_all (i : Instr) : i.WellFormed = true := by
  cases i <;> rfl

end Sys2Proof
end

