-- ==== Sys2Proof/Laws/Memory.lean ====
section
/-! SUPPORT. What memory operations do (spec/20_memory.md R62–R64): a read after a write, the canonical form kept by every
operation, and when the wide accesses succeed. -/

namespace Sys2Proof.Machine

theorem Memory.wfFrom_cons {lo k : Nat} {b : Byte} {m : Memory} :
    Memory.wfFrom lo ((k, b) :: m) = true ↔
      lo ≤ k ∧ k < memSize ∧ b ≠ Memory.unlisted k ∧ Memory.wfFrom (k + 1) m = true := by
  simp [Memory.wfFrom, and_assoc]

theorem Memory.wfFrom_mono {lo lo' : Nat} {m : Memory} (h : Memory.wfFrom lo m = true) (hle : lo' ≤ lo) :
    Memory.wfFrom lo' m = true := by
  cases m with
  | nil => rfl
  | cons c m =>
    obtain ⟨k, b⟩ := c
    obtain ⟨h1, h2⟩ := Memory.wfFrom_cons.mp h
    exact Memory.wfFrom_cons.mpr ⟨by omega, h2⟩

/-- Below its first address a well-formed memory reads as unlisted. -/
theorem Memory.read_below {lo a : Nat} {m : Memory} (h : Memory.wfFrom lo m = true) (ha : a < lo) :
    Memory.read m a = Memory.unlisted a := by
  induction m generalizing lo with
  | nil => rfl
  | cons c m ih =>
    obtain ⟨k, b⟩ := c
    obtain ⟨h1, -, -, h4⟩ := Memory.wfFrom_cons.mp h
    have hk : k ≠ a := by omega
    simp only [Memory.read, if_neg hk]
    exact ih h4 (by omega)

theorem Memory.read_put {lo a q : Nat} {b : Byte} {m : Memory} (h : Memory.wfFrom lo m = true) (ha : a < lo) :
    Memory.read (Memory.put a b m) q = if q = a then b else Memory.read m q := by
  unfold Memory.put
  by_cases hb : b = Memory.unlisted a
  · rw [if_pos hb]
    by_cases hq : q = a
    · rw [if_pos hq, hq, hb, Memory.read_below h ha]
    · rw [if_neg hq]
  · rw [if_neg hb]
    by_cases hq : q = a
    · simp [Memory.read, hq]
    · simp [Memory.read, hq, Ne.symm hq]

theorem Memory.wfFrom_put {lo a : Nat} {b : Byte} {m : Memory} (h : Memory.wfFrom (a + 1) m = true) (hlo : lo ≤ a)
    (ha : a < memSize) : Memory.wfFrom lo (Memory.put a b m) = true := by
  unfold Memory.put
  by_cases hb : b = Memory.unlisted a
  · rw [if_pos hb]; exact Memory.wfFrom_mono h (by omega)
  · rw [if_neg hb]; exact Memory.wfFrom_cons.mpr ⟨hlo, ha, hb, h⟩

/-- A read after a write (20 R69): the byte written there, the old byte everywhere else. -/
theorem Memory.read_write_from {lo : Nat} {m : Memory} (h : Memory.wfFrom lo m = true) (a : Nat) (b : Byte) (q : Nat) :
    Memory.read (Memory.write m a b) q = if q = a then b else Memory.read m q := by
  induction m generalizing lo with
  | nil => exact Memory.read_put (lo := a + 1) rfl (by omega)
  | cons c m ih =>
    obtain ⟨k, d⟩ := c
    obtain ⟨h1, h2, h3, h4⟩ := Memory.wfFrom_cons.mp h
    simp only [Memory.write]
    by_cases hlt : k < a
    · rw [if_pos hlt]
      simp only [Memory.read, ih h4]
      by_cases hkq : k = q
      · rw [if_pos hkq, if_pos hkq, if_neg (by omega)]
      · rw [if_neg hkq, if_neg hkq]
    · rw [if_neg hlt]
      by_cases heq : k = a
      · rw [if_pos heq, Memory.read_put h4 (by omega)]
        by_cases hq : q = a
        · simp [hq]
        · simp [hq, Memory.read, show k ≠ q by omega]
      · rw [if_neg heq]
        exact Memory.read_put (lo := k) (Memory.wfFrom_cons.mpr ⟨le_refl k, h2, h3, h4⟩) (by omega)

theorem Memory.read_write {m : Memory} (h : m.wf = true) (a : Nat) (b : Byte) (q : Nat) :
    (m.write a b).read q = if q = a then b else m.read q :=
  Memory.read_write_from h a b q

theorem Memory.wfFrom_write {lo : Nat} {m : Memory} (h : Memory.wfFrom lo m = true) {a : Nat} (hlo : lo ≤ a)
    (ha : a < memSize) (b : Byte) : Memory.wfFrom lo (Memory.write m a b) = true := by
  induction m generalizing lo with
  | nil => exact Memory.wfFrom_put rfl hlo ha
  | cons c m ih =>
    obtain ⟨k, d⟩ := c
    obtain ⟨h1, h2, h3, h4⟩ := Memory.wfFrom_cons.mp h
    simp only [Memory.write]
    by_cases hlt : k < a
    · rw [if_pos hlt]
      exact Memory.wfFrom_cons.mpr ⟨h1, h2, h3, ih h4 (by omega)⟩
    · rw [if_neg hlt]
      by_cases heq : k = a
      · rw [if_pos heq]
        exact Memory.wfFrom_put (by rw [← heq]; exact h4) hlo ha
      · rw [if_neg heq]
        exact Memory.wfFrom_put (Memory.wfFrom_cons.mpr ⟨by omega, h2, h3, h4⟩) hlo ha

/-- A write keeps the canonical form. -/
theorem Memory.wf_write {m : Memory} (h : m.wf = true) {a : Nat} (ha : a < memSize) (b : Byte) :
    (m.write a b).wf = true :=
  Memory.wfFrom_write h (Nat.zero_le a) ha b

/-- Bytes written inside memory keep the canonical form. -/
theorem Memory.wf_writeAll {m : Memory} (h : m.wf = true) {a : Nat} {bs : List Byte}
    (ha : a + bs.length ≤ memSize) : (m.writeAll a bs).wf = true := by
  induction bs generalizing m a with
  | nil => exact h
  | cons b bs ih =>
    simp only [List.length_cons] at ha
    exact ih (Memory.wf_write h (by omega) b) (by omega)

/-- Bytes written from `a` up read back, and every other address is as before. -/
theorem Memory.read_writeAll {m : Memory} (h : m.wf = true) {a : Nat} {bs : List Byte}
    (ha : a + bs.length ≤ memSize) (q : Nat) :
    (m.writeAll a bs).read q = if a ≤ q ∧ q < a + bs.length then bs.getD (q - a) 0 else m.read q := by
  induction bs generalizing m a with
  | nil => simp [Memory.writeAll]
  | cons b bs ih =>
    simp only [List.length_cons] at ha ⊢
    simp only [Memory.writeAll]
    rw [ih (Memory.wf_write h (by omega) b) (by omega), Memory.read_write h]
    by_cases hq : q = a
    · subst hq
      rw [if_neg (by omega), if_pos rfl, if_pos (by omega)]
      simp
    · by_cases hin : a + 1 ≤ q ∧ q < a + 1 + bs.length
      · rw [if_pos hin, if_pos (by omega), show q - a = (q - (a + 1)) + 1 by omega]
        simp
      · rw [if_neg hin, if_neg hq, if_neg (by omega)]

/-! ### The primitives -/

theorem memRead_ok {m : Memory} {a : Nat} (h : a ≤ 0xFFF) : memRead m a = .ok (m.read a) := by
  unfold memRead; rw [if_neg (by omega)]

theorem memRead_error {m : Memory} {a : Nat} (h : 0xFFF < a) : memRead m a = .error (.memoryOutOfRange a) := by
  unfold memRead; rw [if_pos h]

theorem memWrite_ok {m : Memory} {a : Nat} (h : a ≤ 0xFFF) (b : Byte) : memWrite m a b = .ok (m.write a b) := by
  unfold memWrite; rw [if_neg (by omega)]

theorem memWrite_error {m : Memory} {a : Nat} (h : 0xFFF < a) (b : Byte) :
    memWrite m a b = .error (.memoryOutOfRange a) := by
  unfold memWrite; rw [if_pos h]

/-- The two bytes of an address pair inside memory. -/
theorem memReadWord_ok {m : Memory} {a : Nat} (h : a ≤ 0xFFE) :
    memReadWord m a = .ok (wordOfBytes (m.read a) (m.read (a + 1))) := by
  unfold memReadWord
  rw [memRead_ok (by omega), memRead_ok (by omega)]

/-- A wide read inside memory gives the bytes in order. -/
theorem readBytes_ok {m : Memory} {a n : Nat} (h : a + n ≤ 0x1000) :
    readBytes m a n = .ok ((List.range n).map fun k => m.read (a + k)) := by
  induction n generalizing a with
  | zero => rfl
  | succ n ih =>
    unfold readBytes
    rw [memRead_ok (by omega), ih (by omega)]
    simp only [List.range_succ_eq_map, List.map_cons, List.map_map, Nat.add_zero]
    congr 3
    funext k
    simp only [Function.comp_apply, Nat.succ_eq_add_one]
    congr 1
    omega

/-- A wide read that leaves memory raises with the first address outside (60 R213). -/
theorem readBytes_error {m : Memory} {a n : Nat} (ha : a ≤ 0x1000) (h : 0x1000 < a + n) :
    readBytes m a n = .error (.memoryOutOfRange 0x1000) := by
  induction n generalizing a with
  | zero => omega
  | succ n ih =>
    unfold readBytes
    by_cases hlt : a ≤ 0xFFF
    · rw [memRead_ok hlt, ih (by omega) (by omega)]
    · rw [memRead_error (by omega), show a = 0x1000 by omega]

/-- A wide write inside memory writes every byte. -/
theorem writeBytes_ok {m : Memory} {a : Nat} {bs : List Byte} (h : a + bs.length ≤ 0x1000) :
    writeBytes m a bs = .ok (m.writeAll a bs) := by
  induction bs generalizing m a with
  | nil => rfl
  | cons b bs ih =>
    simp only [List.length_cons] at h
    unfold writeBytes
    rw [memWrite_ok (by omega)]
    exact ih (by omega)

/-- A wide write that leaves memory raises with the first address outside (60 R213). -/
theorem writeBytes_error {m : Memory} {a : Nat} {bs : List Byte} (ha : a ≤ 0x1000) (h : 0x1000 < a + bs.length) :
    writeBytes m a bs = .error (.memoryOutOfRange 0x1000) := by
  induction bs generalizing m a with
  | nil => simp at h; omega
  | cons b bs ih =>
    simp only [List.length_cons] at h
    unfold writeBytes
    by_cases hlt : a ≤ 0xFFF
    · rw [memWrite_ok hlt]; exact ih (by omega) (by omega)
    · rw [memWrite_error (by omega), show a = 0x1000 by omega]

/-- EA(k) is EA(0) + k, and EA(0) is inside memory (20 R64). -/
theorem ea_add (s : State) (k : Nat) : ea s k = ea s 0 + k := rfl

theorem ea_zero_lt (s : State) : ea s 0 < 0x1000 := (s.i.extractLsb' 0 12).isLt

end Sys2Proof.Machine
end

