-- ==== Sys2Proof/Laws/State.lean ====
section
/-! SUPPORT. What each named update does to each field of State, and what a register reads after it. Every lemma about a
field is true by unfolding the update once, here. -/

namespace Sys2Proof.Machine

variable (s : State)

/-! ### setV -/

@[simp] theorem setV_mem (r : Reg) (b : Byte) : (s.setV r b).mem = s.mem := rfl
@[simp] theorem setV_v (r : Reg) (b : Byte) : (s.setV r b).v = s.v.set r b := rfl
@[simp] theorem setV_i (r : Reg) (b : Byte) : (s.setV r b).i = s.i := rfl
@[simp] theorem setV_pc (r : Reg) (b : Byte) : (s.setV r b).pc = s.pc := rfl
@[simp] theorem setV_stack (r : Reg) (b : Byte) : (s.setV r b).stack = s.stack := rfl
@[simp] theorem setV_sp (r : Reg) (b : Byte) : (s.setV r b).sp = s.sp := rfl
@[simp] theorem setV_delay (r : Reg) (b : Byte) : (s.setV r b).delay = s.delay := rfl
@[simp] theorem setV_sound (r : Reg) (b : Byte) : (s.setV r b).sound = s.sound := rfl
@[simp] theorem setV_fb (r : Reg) (b : Byte) : (s.setV r b).fb = s.fb := rfl
@[simp] theorem setV_draw (r : Reg) (b : Byte) : (s.setV r b).draw = s.draw := rfl
@[simp] theorem setV_key (r : Reg) (b : Byte) : (s.setV r b).key = s.key := rfl
@[simp] theorem setV_halted (r : Reg) (b : Byte) : (s.setV r b).halted = s.halted := rfl
@[simp] theorem setV_fault (r : Reg) (b : Byte) : (s.setV r b).fault = s.fault := rfl
@[simp] theorem setV_schedule (r : Reg) (b : Byte) : (s.setV r b).schedule = s.schedule := rfl
@[simp] theorem setV_draws (r : Reg) (b : Byte) : (s.setV r b).draws = s.draws := rfl

/-! ### setVF -/

@[simp] theorem setVF_mem (f : Byte) : (s.setVF f).mem = s.mem := rfl
@[simp] theorem setVF_v (f : Byte) : (s.setVF f).v = s.v.set vF f := rfl
@[simp] theorem setVF_i (f : Byte) : (s.setVF f).i = s.i := rfl
@[simp] theorem setVF_pc (f : Byte) : (s.setVF f).pc = s.pc := rfl
@[simp] theorem setVF_stack (f : Byte) : (s.setVF f).stack = s.stack := rfl
@[simp] theorem setVF_sp (f : Byte) : (s.setVF f).sp = s.sp := rfl
@[simp] theorem setVF_delay (f : Byte) : (s.setVF f).delay = s.delay := rfl
@[simp] theorem setVF_sound (f : Byte) : (s.setVF f).sound = s.sound := rfl
@[simp] theorem setVF_fb (f : Byte) : (s.setVF f).fb = s.fb := rfl
@[simp] theorem setVF_draw (f : Byte) : (s.setVF f).draw = s.draw := rfl
@[simp] theorem setVF_key (f : Byte) : (s.setVF f).key = s.key := rfl
@[simp] theorem setVF_halted (f : Byte) : (s.setVF f).halted = s.halted := rfl
@[simp] theorem setVF_fault (f : Byte) : (s.setVF f).fault = s.fault := rfl
@[simp] theorem setVF_schedule (f : Byte) : (s.setVF f).schedule = s.schedule := rfl
@[simp] theorem setVF_draws (f : Byte) : (s.setVF f).draws = s.draws := rfl

/-! ### setI -/

@[simp] theorem setI_mem (w : Word) : (s.setI w).mem = s.mem := rfl
@[simp] theorem setI_v (w : Word) : (s.setI w).v = s.v := rfl
@[simp] theorem setI_i (w : Word) : (s.setI w).i = w := rfl
@[simp] theorem setI_pc (w : Word) : (s.setI w).pc = s.pc := rfl
@[simp] theorem setI_stack (w : Word) : (s.setI w).stack = s.stack := rfl
@[simp] theorem setI_sp (w : Word) : (s.setI w).sp = s.sp := rfl
@[simp] theorem setI_delay (w : Word) : (s.setI w).delay = s.delay := rfl
@[simp] theorem setI_sound (w : Word) : (s.setI w).sound = s.sound := rfl
@[simp] theorem setI_fb (w : Word) : (s.setI w).fb = s.fb := rfl
@[simp] theorem setI_draw (w : Word) : (s.setI w).draw = s.draw := rfl
@[simp] theorem setI_key (w : Word) : (s.setI w).key = s.key := rfl
@[simp] theorem setI_halted (w : Word) : (s.setI w).halted = s.halted := rfl
@[simp] theorem setI_fault (w : Word) : (s.setI w).fault = s.fault := rfl
@[simp] theorem setI_schedule (w : Word) : (s.setI w).schedule = s.schedule := rfl
@[simp] theorem setI_draws (w : Word) : (s.setI w).draws = s.draws := rfl

/-! ### setPc -/

@[simp] theorem setPc_mem (w : Word) : (s.setPc w).mem = s.mem := rfl
@[simp] theorem setPc_v (w : Word) : (s.setPc w).v = s.v := rfl
@[simp] theorem setPc_i (w : Word) : (s.setPc w).i = s.i := rfl
@[simp] theorem setPc_pc (w : Word) : (s.setPc w).pc = w := rfl
@[simp] theorem setPc_stack (w : Word) : (s.setPc w).stack = s.stack := rfl
@[simp] theorem setPc_sp (w : Word) : (s.setPc w).sp = s.sp := rfl
@[simp] theorem setPc_delay (w : Word) : (s.setPc w).delay = s.delay := rfl
@[simp] theorem setPc_sound (w : Word) : (s.setPc w).sound = s.sound := rfl
@[simp] theorem setPc_fb (w : Word) : (s.setPc w).fb = s.fb := rfl
@[simp] theorem setPc_draw (w : Word) : (s.setPc w).draw = s.draw := rfl
@[simp] theorem setPc_key (w : Word) : (s.setPc w).key = s.key := rfl
@[simp] theorem setPc_halted (w : Word) : (s.setPc w).halted = s.halted := rfl
@[simp] theorem setPc_fault (w : Word) : (s.setPc w).fault = s.fault := rfl
@[simp] theorem setPc_schedule (w : Word) : (s.setPc w).schedule = s.schedule := rfl
@[simp] theorem setPc_draws (w : Word) : (s.setPc w).draws = s.draws := rfl

/-! ### advance -/

@[simp] theorem advance_mem : s.advance.mem = s.mem := rfl
@[simp] theorem advance_v : s.advance.v = s.v := rfl
@[simp] theorem advance_i : s.advance.i = s.i := rfl
@[simp] theorem advance_pc : s.advance.pc = s.pc + 2 := rfl
@[simp] theorem advance_stack : s.advance.stack = s.stack := rfl
@[simp] theorem advance_sp : s.advance.sp = s.sp := rfl
@[simp] theorem advance_delay : s.advance.delay = s.delay := rfl
@[simp] theorem advance_sound : s.advance.sound = s.sound := rfl
@[simp] theorem advance_fb : s.advance.fb = s.fb := rfl
@[simp] theorem advance_draw : s.advance.draw = s.draw := rfl
@[simp] theorem advance_key : s.advance.key = s.key := rfl
@[simp] theorem advance_halted : s.advance.halted = s.halted := rfl
@[simp] theorem advance_fault : s.advance.fault = s.fault := rfl
@[simp] theorem advance_schedule : s.advance.schedule = s.schedule := rfl
@[simp] theorem advance_draws : s.advance.draws = s.draws := rfl

/-! ### skipIf -/

@[simp] theorem skipIf_mem (c : Bool) : (s.skipIf c).mem = s.mem := rfl
@[simp] theorem skipIf_v (c : Bool) : (s.skipIf c).v = s.v := rfl
@[simp] theorem skipIf_i (c : Bool) : (s.skipIf c).i = s.i := rfl
@[simp] theorem skipIf_pc (c : Bool) : (s.skipIf c).pc = if c then s.pc + 4 else s.pc + 2 := rfl
@[simp] theorem skipIf_stack (c : Bool) : (s.skipIf c).stack = s.stack := rfl
@[simp] theorem skipIf_sp (c : Bool) : (s.skipIf c).sp = s.sp := rfl
@[simp] theorem skipIf_delay (c : Bool) : (s.skipIf c).delay = s.delay := rfl
@[simp] theorem skipIf_sound (c : Bool) : (s.skipIf c).sound = s.sound := rfl
@[simp] theorem skipIf_fb (c : Bool) : (s.skipIf c).fb = s.fb := rfl
@[simp] theorem skipIf_draw (c : Bool) : (s.skipIf c).draw = s.draw := rfl
@[simp] theorem skipIf_key (c : Bool) : (s.skipIf c).key = s.key := rfl
@[simp] theorem skipIf_halted (c : Bool) : (s.skipIf c).halted = s.halted := rfl
@[simp] theorem skipIf_fault (c : Bool) : (s.skipIf c).fault = s.fault := rfl
@[simp] theorem skipIf_schedule (c : Bool) : (s.skipIf c).schedule = s.schedule := rfl
@[simp] theorem skipIf_draws (c : Bool) : (s.skipIf c).draws = s.draws := rfl

/-! ### setMem -/

@[simp] theorem setMem_mem (m : Memory) : (s.setMem m).mem = m := rfl
@[simp] theorem setMem_v (m : Memory) : (s.setMem m).v = s.v := rfl
@[simp] theorem setMem_i (m : Memory) : (s.setMem m).i = s.i := rfl
@[simp] theorem setMem_pc (m : Memory) : (s.setMem m).pc = s.pc := rfl
@[simp] theorem setMem_stack (m : Memory) : (s.setMem m).stack = s.stack := rfl
@[simp] theorem setMem_sp (m : Memory) : (s.setMem m).sp = s.sp := rfl
@[simp] theorem setMem_delay (m : Memory) : (s.setMem m).delay = s.delay := rfl
@[simp] theorem setMem_sound (m : Memory) : (s.setMem m).sound = s.sound := rfl
@[simp] theorem setMem_fb (m : Memory) : (s.setMem m).fb = s.fb := rfl
@[simp] theorem setMem_draw (m : Memory) : (s.setMem m).draw = s.draw := rfl
@[simp] theorem setMem_key (m : Memory) : (s.setMem m).key = s.key := rfl
@[simp] theorem setMem_halted (m : Memory) : (s.setMem m).halted = s.halted := rfl
@[simp] theorem setMem_fault (m : Memory) : (s.setMem m).fault = s.fault := rfl
@[simp] theorem setMem_schedule (m : Memory) : (s.setMem m).schedule = s.schedule := rfl
@[simp] theorem setMem_draws (m : Memory) : (s.setMem m).draws = s.draws := rfl

/-! ### setDelay -/

@[simp] theorem setDelay_mem (b : Byte) : (s.setDelay b).mem = s.mem := rfl
@[simp] theorem setDelay_v (b : Byte) : (s.setDelay b).v = s.v := rfl
@[simp] theorem setDelay_i (b : Byte) : (s.setDelay b).i = s.i := rfl
@[simp] theorem setDelay_pc (b : Byte) : (s.setDelay b).pc = s.pc := rfl
@[simp] theorem setDelay_stack (b : Byte) : (s.setDelay b).stack = s.stack := rfl
@[simp] theorem setDelay_sp (b : Byte) : (s.setDelay b).sp = s.sp := rfl
@[simp] theorem setDelay_delay (b : Byte) : (s.setDelay b).delay = b := rfl
@[simp] theorem setDelay_sound (b : Byte) : (s.setDelay b).sound = s.sound := rfl
@[simp] theorem setDelay_fb (b : Byte) : (s.setDelay b).fb = s.fb := rfl
@[simp] theorem setDelay_draw (b : Byte) : (s.setDelay b).draw = s.draw := rfl
@[simp] theorem setDelay_key (b : Byte) : (s.setDelay b).key = s.key := rfl
@[simp] theorem setDelay_halted (b : Byte) : (s.setDelay b).halted = s.halted := rfl
@[simp] theorem setDelay_fault (b : Byte) : (s.setDelay b).fault = s.fault := rfl
@[simp] theorem setDelay_schedule (b : Byte) : (s.setDelay b).schedule = s.schedule := rfl
@[simp] theorem setDelay_draws (b : Byte) : (s.setDelay b).draws = s.draws := rfl

/-! ### setSound -/

@[simp] theorem setSound_mem (b : Byte) : (s.setSound b).mem = s.mem := rfl
@[simp] theorem setSound_v (b : Byte) : (s.setSound b).v = s.v := rfl
@[simp] theorem setSound_i (b : Byte) : (s.setSound b).i = s.i := rfl
@[simp] theorem setSound_pc (b : Byte) : (s.setSound b).pc = s.pc := rfl
@[simp] theorem setSound_stack (b : Byte) : (s.setSound b).stack = s.stack := rfl
@[simp] theorem setSound_sp (b : Byte) : (s.setSound b).sp = s.sp := rfl
@[simp] theorem setSound_delay (b : Byte) : (s.setSound b).delay = s.delay := rfl
@[simp] theorem setSound_sound (b : Byte) : (s.setSound b).sound = b := rfl
@[simp] theorem setSound_fb (b : Byte) : (s.setSound b).fb = s.fb := rfl
@[simp] theorem setSound_draw (b : Byte) : (s.setSound b).draw = s.draw := rfl
@[simp] theorem setSound_key (b : Byte) : (s.setSound b).key = s.key := rfl
@[simp] theorem setSound_halted (b : Byte) : (s.setSound b).halted = s.halted := rfl
@[simp] theorem setSound_fault (b : Byte) : (s.setSound b).fault = s.fault := rfl
@[simp] theorem setSound_schedule (b : Byte) : (s.setSound b).schedule = s.schedule := rfl
@[simp] theorem setSound_draws (b : Byte) : (s.setSound b).draws = s.draws := rfl

/-! ### present -/

@[simp] theorem present_mem (g : Framebuffer) : (s.present g).mem = s.mem := rfl
@[simp] theorem present_v (g : Framebuffer) : (s.present g).v = s.v := rfl
@[simp] theorem present_i (g : Framebuffer) : (s.present g).i = s.i := rfl
@[simp] theorem present_pc (g : Framebuffer) : (s.present g).pc = s.pc := rfl
@[simp] theorem present_stack (g : Framebuffer) : (s.present g).stack = s.stack := rfl
@[simp] theorem present_sp (g : Framebuffer) : (s.present g).sp = s.sp := rfl
@[simp] theorem present_delay (g : Framebuffer) : (s.present g).delay = s.delay := rfl
@[simp] theorem present_sound (g : Framebuffer) : (s.present g).sound = s.sound := rfl
@[simp] theorem present_fb (g : Framebuffer) : (s.present g).fb = g := rfl
@[simp] theorem present_draw (g : Framebuffer) : (s.present g).draw = true := rfl
@[simp] theorem present_key (g : Framebuffer) : (s.present g).key = s.key := rfl
@[simp] theorem present_halted (g : Framebuffer) : (s.present g).halted = s.halted := rfl
@[simp] theorem present_fault (g : Framebuffer) : (s.present g).fault = s.fault := rfl
@[simp] theorem present_schedule (g : Framebuffer) : (s.present g).schedule = s.schedule := rfl
@[simp] theorem present_draws (g : Framebuffer) : (s.present g).draws = s.draws := rfl

/-! ### countDraw -/

@[simp] theorem countDraw_mem : s.countDraw.mem = s.mem := rfl
@[simp] theorem countDraw_v : s.countDraw.v = s.v := rfl
@[simp] theorem countDraw_i : s.countDraw.i = s.i := rfl
@[simp] theorem countDraw_pc : s.countDraw.pc = s.pc := rfl
@[simp] theorem countDraw_stack : s.countDraw.stack = s.stack := rfl
@[simp] theorem countDraw_sp : s.countDraw.sp = s.sp := rfl
@[simp] theorem countDraw_delay : s.countDraw.delay = s.delay := rfl
@[simp] theorem countDraw_sound : s.countDraw.sound = s.sound := rfl
@[simp] theorem countDraw_fb : s.countDraw.fb = s.fb := rfl
@[simp] theorem countDraw_draw : s.countDraw.draw = s.draw := rfl
@[simp] theorem countDraw_key : s.countDraw.key = s.key := rfl
@[simp] theorem countDraw_halted : s.countDraw.halted = s.halted := rfl
@[simp] theorem countDraw_fault : s.countDraw.fault = s.fault := rfl
@[simp] theorem countDraw_schedule : s.countDraw.schedule = s.schedule := rfl
@[simp] theorem countDraw_draws : s.countDraw.draws = s.draws + 1 := rfl

/-! ### takeFatal -/

@[simp] theorem takeFatal_mem (c : Raised) (op : Option Word) : (takeFatal c op s).mem = s.mem := rfl
@[simp] theorem takeFatal_v (c : Raised) (op : Option Word) : (takeFatal c op s).v = s.v := rfl
@[simp] theorem takeFatal_i (c : Raised) (op : Option Word) : (takeFatal c op s).i = s.i := rfl
@[simp] theorem takeFatal_pc (c : Raised) (op : Option Word) : (takeFatal c op s).pc = s.pc := rfl
@[simp] theorem takeFatal_stack (c : Raised) (op : Option Word) : (takeFatal c op s).stack = s.stack := rfl
@[simp] theorem takeFatal_sp (c : Raised) (op : Option Word) : (takeFatal c op s).sp = s.sp := rfl
@[simp] theorem takeFatal_delay (c : Raised) (op : Option Word) : (takeFatal c op s).delay = s.delay := rfl
@[simp] theorem takeFatal_sound (c : Raised) (op : Option Word) : (takeFatal c op s).sound = s.sound := rfl
@[simp] theorem takeFatal_fb (c : Raised) (op : Option Word) : (takeFatal c op s).fb = s.fb := rfl
@[simp] theorem takeFatal_draw (c : Raised) (op : Option Word) : (takeFatal c op s).draw = s.draw := rfl
@[simp] theorem takeFatal_key (c : Raised) (op : Option Word) : (takeFatal c op s).key = s.key := rfl
@[simp] theorem takeFatal_halted (c : Raised) (op : Option Word) : (takeFatal c op s).halted = true := rfl
@[simp] theorem takeFatal_fault (c : Raised) (op : Option Word) : (takeFatal c op s).fault = some (faultRecord c op s) := rfl
@[simp] theorem takeFatal_schedule (c : Raised) (op : Option Word) : (takeFatal c op s).schedule = s.schedule := rfl
@[simp] theorem takeFatal_draws (c : Raised) (op : Option Word) : (takeFatal c op s).draws = s.draws := rfl

/-! ### setKeysTxn -/

@[simp] theorem setKeysTxn_mem (k : BitVec 16) : (setKeysTxn k s).mem = s.mem := rfl
@[simp] theorem setKeysTxn_v (k : BitVec 16) : (setKeysTxn k s).v = s.v := rfl
@[simp] theorem setKeysTxn_i (k : BitVec 16) : (setKeysTxn k s).i = s.i := rfl
@[simp] theorem setKeysTxn_pc (k : BitVec 16) : (setKeysTxn k s).pc = s.pc := rfl
@[simp] theorem setKeysTxn_stack (k : BitVec 16) : (setKeysTxn k s).stack = s.stack := rfl
@[simp] theorem setKeysTxn_sp (k : BitVec 16) : (setKeysTxn k s).sp = s.sp := rfl
@[simp] theorem setKeysTxn_delay (k : BitVec 16) : (setKeysTxn k s).delay = s.delay := rfl
@[simp] theorem setKeysTxn_sound (k : BitVec 16) : (setKeysTxn k s).sound = s.sound := rfl
@[simp] theorem setKeysTxn_fb (k : BitVec 16) : (setKeysTxn k s).fb = s.fb := rfl
@[simp] theorem setKeysTxn_draw (k : BitVec 16) : (setKeysTxn k s).draw = s.draw := rfl
@[simp] theorem setKeysTxn_key (k : BitVec 16) : (setKeysTxn k s).key = k := rfl
@[simp] theorem setKeysTxn_halted (k : BitVec 16) : (setKeysTxn k s).halted = s.halted := rfl
@[simp] theorem setKeysTxn_fault (k : BitVec 16) : (setKeysTxn k s).fault = s.fault := rfl
@[simp] theorem setKeysTxn_schedule (k : BitVec 16) : (setKeysTxn k s).schedule = s.schedule := rfl
@[simp] theorem setKeysTxn_draws (k : BitVec 16) : (setKeysTxn k s).draws = s.draws := rfl

/-! ### drawAckTxn -/

@[simp] theorem drawAckTxn_mem : (drawAckTxn s).mem = s.mem := rfl
@[simp] theorem drawAckTxn_v : (drawAckTxn s).v = s.v := rfl
@[simp] theorem drawAckTxn_i : (drawAckTxn s).i = s.i := rfl
@[simp] theorem drawAckTxn_pc : (drawAckTxn s).pc = s.pc := rfl
@[simp] theorem drawAckTxn_stack : (drawAckTxn s).stack = s.stack := rfl
@[simp] theorem drawAckTxn_sp : (drawAckTxn s).sp = s.sp := rfl
@[simp] theorem drawAckTxn_delay : (drawAckTxn s).delay = s.delay := rfl
@[simp] theorem drawAckTxn_sound : (drawAckTxn s).sound = s.sound := rfl
@[simp] theorem drawAckTxn_fb : (drawAckTxn s).fb = s.fb := rfl
@[simp] theorem drawAckTxn_draw : (drawAckTxn s).draw = false := rfl
@[simp] theorem drawAckTxn_key : (drawAckTxn s).key = s.key := rfl
@[simp] theorem drawAckTxn_halted : (drawAckTxn s).halted = s.halted := rfl
@[simp] theorem drawAckTxn_fault : (drawAckTxn s).fault = s.fault := rfl
@[simp] theorem drawAckTxn_schedule : (drawAckTxn s).schedule = s.schedule := rfl
@[simp] theorem drawAckTxn_draws : (drawAckTxn s).draws = s.draws := rfl

/-! ### resetTxn -/

@[simp] theorem resetTxn_mem : (resetTxn s).mem = State.reset.mem := rfl
@[simp] theorem resetTxn_v : (resetTxn s).v = State.reset.v := rfl
@[simp] theorem resetTxn_i : (resetTxn s).i = State.reset.i := rfl
@[simp] theorem resetTxn_pc : (resetTxn s).pc = State.reset.pc := rfl
@[simp] theorem resetTxn_stack : (resetTxn s).stack = State.reset.stack := rfl
@[simp] theorem resetTxn_sp : (resetTxn s).sp = State.reset.sp := rfl
@[simp] theorem resetTxn_delay : (resetTxn s).delay = State.reset.delay := rfl
@[simp] theorem resetTxn_sound : (resetTxn s).sound = State.reset.sound := rfl
@[simp] theorem resetTxn_fb : (resetTxn s).fb = State.reset.fb := rfl
@[simp] theorem resetTxn_draw : (resetTxn s).draw = State.reset.draw := rfl
@[simp] theorem resetTxn_key : (resetTxn s).key = State.reset.key := rfl
@[simp] theorem resetTxn_halted : (resetTxn s).halted = State.reset.halted := rfl
@[simp] theorem resetTxn_fault : (resetTxn s).fault = State.reset.fault := rfl
@[simp] theorem resetTxn_schedule : (resetTxn s).schedule = s.schedule := rfl
@[simp] theorem resetTxn_draws : (resetTxn s).draws = s.draws := rfl

/-! ### Registers -/

theorem getV_eq (r : Reg) : s.getV r = s.v[r] := rfl

@[simp] theorem getV_setV_self (r : Reg) (b : Byte) : (s.setV r b).getV r = b := by
  simp [getV_eq]

theorem getV_setV_ne {q r : Reg} (h : q ≠ r) (b : Byte) : (s.setV r b).getV q = s.getV q := by
  have h' : ¬ r.val = q.val := fun e => h (Fin.ext e.symm)
  simp [getV_eq, h']

theorem getV_setV (q r : Reg) (b : Byte) : (s.setV r b).getV q = if q = r then b else s.getV q := by
  by_cases h : q = r
  · simp [h]
  · simp [h, getV_setV_ne s h]

theorem getV_setVF (q : Reg) (f : Byte) : (s.setVF f).getV q = if q = vF then f else s.getV q :=
  getV_setV s q vF f

@[simp] theorem getV_setI (w : Word) (r : Reg) : (s.setI w).getV r = s.getV r := rfl
@[simp] theorem getV_setPc (w : Word) (r : Reg) : (s.setPc w).getV r = s.getV r := rfl
@[simp] theorem getV_advance (r : Reg) : s.advance.getV r = s.getV r := rfl
@[simp] theorem getV_skipIf (c : Bool) (r : Reg) : (s.skipIf c).getV r = s.getV r := rfl
@[simp] theorem getV_setMem (m : Memory) (r : Reg) : (s.setMem m).getV r = s.getV r := rfl
@[simp] theorem getV_setDelay (b : Byte) (r : Reg) : (s.setDelay b).getV r = s.getV r := rfl
@[simp] theorem getV_setSound (b : Byte) (r : Reg) : (s.setSound b).getV r = s.getV r := rfl
@[simp] theorem getV_present (g : Framebuffer) (r : Reg) : (s.present g).getV r = s.getV r := rfl
@[simp] theorem getV_countDraw (r : Reg) : s.countDraw.getV r = s.getV r := rfl
@[simp] theorem getV_takeFatal (c : Raised) (op : Option Word) (r : Reg) : (takeFatal c op s).getV r = s.getV r := rfl
@[simp] theorem getV_setKeysTxn (k : BitVec 16) (r : Reg) : (setKeysTxn k s).getV r = s.getV r := rfl
@[simp] theorem getV_drawAckTxn (r : Reg) : (drawAckTxn s).getV r = s.getV r := rfl

@[simp] theorem getV_reset (r : Reg) : State.reset.getV r = 0 := by
  simp [getV_eq, State.reset]

/-- The effective address depends on I alone. -/
theorem ea_congr {s t : State} (h : t.i = s.i) (k : Nat) : ea t k = ea s k := by
  simp [ea, h]

/-- Fetch depends on pc and memory alone. -/
theorem fetch_congr {s t : State} (hp : t.pc = s.pc) (hm : t.mem = s.mem) : fetch t = fetch s := by
  simp [fetch, hp, hm]

end Sys2Proof.Machine
end

