-- ==== Sys2Proof/Laws/Exec.lean ====
section
/-! SUPPORT. One lemma per shared operation, saying once everything it can do. -/

namespace Sys2Proof.Machine

/-! ### The end of an instruction -/

@[simp] theorem conclude_ok (i : Instr) (s t : State) : conclude i s (.ok t) = .next t := rfl

@[simp] theorem conclude_error (i : Instr) (s : State) (c : Raised) :
    conclude i s (.error c) = .next (takeFatal c (some (encode i)) s) := rfl

/-- An instruction ends in the state it computed, or in the fatal condition it raised (60 R212). -/
theorem conclude_cases {i : Instr} {s t : State} {r : Except Raised State} (h : conclude i s r = .next t) :
    r = .ok t ∨ ∃ c, r = .error c ∧ t = takeFatal c (some (encode i)) s := by
  cases r with
  | ok u => exact .inl (by simpa [conclude] using h)
  | error c => exact .inr ⟨c, rfl, by simpa [conclude] using h.symm⟩

/-- Every instruction's meaning ends in `conclude`. -/
theorem exec_concludes (i : Instr) (s : State) : ∃ r, exec i s = conclude i s r := by
  cases i <;>
    simp only [exec, execCls, execRet, execJp, execCall, execSeByte, execSneByte, execSeReg, execLdByte,
      execAddByte, execLdReg, execOrReg, execAndReg, execXorReg, execAddReg, execSubReg, execShr, execSubnReg,
      execShl, execSneReg, execLdI, execJpV0, execRnd, execDrw, execSkp, execSknp, execLdVxDT, execLdVxK,
      execLdDTVx, execLdSTVx, execAddIVx, execLdFVx, execLdBVx, execStRegs, execLdRegs] <;>
    exact ⟨_, rfl⟩

/-- The frame of a fatal condition: only `halted` and `fault` change. -/
theorem frame_takeFatal (c : Raised) (op : Option Word) (s : State) :
    Frame [] [.halted, .fault] noBytes s (takeFatal c op s) where
  regs := fun _ _ => rfl
  parts := fun p hp => by cases p <;> first | rfl | simp at hp
  memory := fun _ _ => rfl

/-- An instruction that computes a fatal condition raises it. -/
theorem raises_of_error {i : Instr} {s : State} {c : Raised}
    (h : exec i s = .next (takeFatal c (some (encode i)) s)) : Raises i s c.condition c.info :=
  ⟨_, h, ⟨rfl, rfl⟩, frame_takeFatal c _ s⟩

/-! ### Fetch (30 R82) -/

theorem fetch_odd {s : State} (h : s.pc[0] = true) : fetch s = .error .pcMisaligned := by
  unfold fetch; rw [if_pos h]

theorem fetch_outside {s : State} (h : s.pc[0] = false) (hp : 0xFFE < s.pc.toNat) :
    fetch s = .error (.memoryOutOfRange s.pc.toNat) := by
  unfold fetch; rw [if_neg (by simp [h]), if_pos hp]

theorem fetch_inside {s : State} (h : s.pc[0] = false) (hp : s.pc.toNat ≤ 0xFFE) :
    fetch s = .ok (wordOfBytes (s.mem.read s.pc.toNat) (s.mem.read (s.pc.toNat + 1))) := by
  unfold fetch; rw [if_neg (by simp [h]), if_neg (by omega), memReadWord_ok hp]

/-- A fetch that gives a word was made at an even pc inside memory. -/
theorem fetch_ok {s : State} {w : Word} (h : fetch s = .ok w) : s.pc[0] = false ∧ s.pc.toNat ≤ 0xFFE := by
  by_cases h0 : s.pc[0] = true
  · rw [fetch_odd h0] at h; cases h
  · have h0' : s.pc[0] = false := by simpa using h0
    by_cases hp : 0xFFE < s.pc.toNat
    · rw [fetch_outside h0' hp] at h; cases h
    · exact ⟨h0', by omega⟩

/-! ### The call stack (40 R100, R102) -/

theorem push_full {s : State} {w : Word} (h : s.sp = 16) : s.push w = .error .stackOverflow := by
  unfold State.push; rw [dif_neg (by rw [h]; decide)]

theorem push_ok {s : State} {w : Word} (h : s.sp.val < 16) :
    s.push w = .ok { s with stack := s.stack.set s.sp.val w, sp := ⟨s.sp.val + 1, by omega⟩ } := by
  unfold State.push; rw [dif_pos h]

theorem pop_empty {s : State} (h : s.sp = 0) : s.pop = .error .stackUnderflow := by
  unfold State.pop; rw [dif_pos (by rw [h]; rfl)]

theorem pop_ok {s : State} (h : s.sp.val ≠ 0) :
    s.pop = .ok (s.stack[s.sp.val - 1]'(by omega), { s with sp := ⟨s.sp.val - 1, by omega⟩ }) := by
  unfold State.pop; rw [dif_neg h]

/-! ### Registers in bulk (42 R154, R155) -/

/-- Registers written from V[k] up: those take the bytes in order, the others keep theirs. -/
theorem getV_setVsFrom (s : State) (k : Nat) (bs : List Byte) (r : Reg) :
    (s.setVsFrom k bs).getV r = if k ≤ r.val ∧ r.val < k + bs.length then bs.getD (r.val - k) 0 else s.getV r := by
  induction bs generalizing s k with
  | nil => simp [State.setVsFrom]
  | cons b bs ih =>
    unfold State.setVsFrom
    by_cases hk : k < 16
    · rw [dif_pos hk, ih, getV_setV]
      simp only [List.length_cons]
      by_cases hr : r.val = k
      · have : r = ⟨k, hk⟩ := Fin.ext hr
        rw [if_neg (by omega), if_pos this, if_pos (by omega), hr]
        simp
      · have : r ≠ ⟨k, hk⟩ := fun e => hr (congrArg Fin.val e)
        rw [if_neg this]
        by_cases hin : k + 1 ≤ r.val ∧ r.val < k + 1 + bs.length
        · rw [if_pos hin, if_pos (by omega), show r.val - k = (r.val - (k + 1)) + 1 by omega]
          simp
        · rw [if_neg hin, if_neg (by omega)]
    · rw [dif_neg hk, if_neg (by have := r.isLt; omega)]

/-- Registers written in bulk are all that changes. -/
theorem setVsFrom_eq (s : State) (k : Nat) (bs : List Byte) :
    s.setVsFrom k bs = { s with v := (s.setVsFrom k bs).v } := by
  induction bs generalizing s k with
  | nil => rfl
  | cons b bs ih =>
    unfold State.setVsFrom
    by_cases hk : k < 16
    · rw [dif_pos hk]; rw [ih]; rfl
    · rw [dif_neg hk]

theorem regsUpTo_length (s : State) (x : Reg) : (s.regsUpTo x).length = x.val + 1 := by
  have := x.isLt
  simp [State.regsUpTo]

theorem regsUpTo_getD (s : State) (x : Reg) {k : Nat} (h : k ≤ x.val) (hk : k < 16) :
    (s.regsUpTo x).getD k 0 = s.getV ⟨k, hk⟩ := by
  have := x.isLt
  simp [State.regsUpTo, getV_eq, List.getD_eq_getElem?_getD, show k < x.val + 1 by omega]

/-! ### The blitter (43 R171–R174) -/

theorem pixelOf_flip (fb : Framebuffer) (p q : Pixel) :
    pixelOf (flipPixel fb p) q = (pixelOf fb q ^^ decide (p = q)) := by
  obtain ⟨px, py⟩ := p
  obtain ⟨qx, qy⟩ := q
  unfold pixelOf flipPixel
  by_cases hy : py = qy
  · subst hy
    simp [Fin.ext_iff, eq_comm]
  · have hy' : ¬ py.val = qy.val := fun e => hy (Fin.ext e)
    simp [hy', hy]

@[simp] theorem pixelOf_clear (p : Pixel) : pixelOf clearFb p = false := by
  simp [pixelOf, clearFb]

/-- A pixel drawn after `ps`: its collision is that of the screen as `ps` left it. -/
theorem blit_append (fb : Framebuffer) (ps : List Pixel) (p : Pixel) :
    blit fb (ps ++ [p]) = blitPixel (blit fb ps) p := by
  simp [blit]

/-- Where no pixel is drawn twice, drawing in order flips exactly the pixels drawn, and collides when one of them was
set (43 R173, R174, R177). -/
theorem blit_eq (fb : Framebuffer) (ps : List Pixel) (h : ps.Nodup) :
    (∀ q, pixelOf (blit fb ps).1 q = (pixelOf fb q ^^ decide (q ∈ ps))) ∧
      (blit fb ps).2 = ps.any (pixelOf fb ·) := by
  induction ps using List.reverseRecOn with
  | nil => simp [blit]
  | append_singleton ps p ih =>
    have hnd := List.nodup_append.mp h
    have hp : p ∉ ps := fun hm => hnd.2.2 p hm p (by simp) rfl
    obtain ⟨ih1, ih2⟩ := ih hnd.1
    rw [blit_append]
    constructor
    · intro q
      simp only [blitPixel, pixelOf_flip, ih1]
      by_cases hq : p = q
      · subst hq; simp [hp]
      · simp [hq, Ne.symm hq]
    · simp only [blitPixel, ih2, ih1]
      simp [hp, Bool.or_comm]

/-! ### The keypad (44 R193) -/

/-- No lowest key where no key is pressed. -/
theorem lowestKey_none {key : BitVec 16} : lowestKey key = none ↔ key = 0 := by
  constructor
  · intro h
    ext k hk
    have := List.find?_eq_none.mp h k (by simpa using hk)
    simpa [BitVec.getLsbD_eq_getElem hk] using this
  · rintro rfl; decide

/-- The lowest key is pressed and no lower one is. -/
theorem lowestKey_some {key : BitVec 16} {k : Nat} (h : lowestKey key = some k) :
    k < 16 ∧ key.getLsbD k = true ∧ ∀ j < k, key.getLsbD j = false := by
  unfold lowestKey at h
  have h1 := List.find?_some h
  have h2 := List.mem_of_find?_eq_some h
  refine ⟨by simpa using h2, by simpa using h1, fun j hj => ?_⟩
  obtain ⟨-, as, bs, hs, hall⟩ := List.find?_eq_some_iff_append.mp h
  have hjm : j ∈ as := by
    have hlen : as.length = k := by
      have hg : (List.range 16)[as.length]? = some k := by rw [hs]; simp
      simpa using (List.getElem?_eq_some_iff.mp hg).2
    have hg : (List.range 16)[j]? = as[j]? := by rw [hs, List.getElem?_append_left (by omega)]
    have hj16 : j < 16 := by have := List.mem_range.mp h2; omega
    have : as[j]? = some j := by rw [← hg]; simp [hj16]
    exact List.mem_of_getElem? this
  simpa using hall j hjm

end Sys2Proof.Machine
end

