-- ==== Sys2Proof/Laws/Frame.lean ====
section
/-! SUPPORT. Frames of the named updates, and how frames combine. -/

namespace Sys2Proof.Machine

theorem Frame.refl (regs : List Reg) (parts : List Part) (stored : Nat → Prop) (s : State) :
    Frame regs parts stored s s where
  regs := fun _ _ => rfl
  parts := fun p _ => by cases p <;> rfl
  memory := fun _ _ => rfl

/-- A frame that allows more. -/
theorem Frame.mono {regs regs' : List Reg} {parts parts' : List Part} {stored stored' : Nat → Prop} {s t : State}
    (h : Frame regs parts stored s t) (hr : regs ⊆ regs') (hp : parts ⊆ parts') (hb : ∀ a, stored a → stored' a) :
    Frame regs' parts' stored' s t where
  regs := fun r hn => h.regs r fun hm => hn (hr hm)
  parts := fun p hn => h.parts p fun hm => hn (hp hm)
  memory := fun a hn => h.memory a fun hm => hn (hb a hm)

theorem Part.same_trans {p : Part} {s t u : State} (h₁ : p.same s t) (h₂ : p.same t u) : p.same s u := by
  cases p <;> exact Eq.trans h₂ h₁

/-- What two updates one after the other leave. -/
theorem Frame.trans {regs : List Reg} {parts : List Part} {stored : Nat → Prop} {s t u : State}
    (h₁ : Frame regs parts stored s t) (h₂ : Frame regs parts stored t u) : Frame regs parts stored s u where
  regs := fun r hn => (h₂.regs r hn).trans (h₁.regs r hn)
  parts := fun p hn => Part.same_trans (h₁.parts p hn) (h₂.parts p hn)
  memory := fun a hn => (h₂.memory a hn).trans (h₁.memory a hn)

/-- An update of V alone. -/
theorem frame_v {regs : List Reg} {s : State} {w : Vector Byte 16}
    (h : ∀ r : Reg, r ∉ regs → w[r] = s.v[r]) (parts : List Part) (stored : Nat → Prop) :
    Frame regs parts stored s { s with v := w } where
  regs := fun r hn => h r hn
  parts := fun p _ => by cases p <;> rfl
  memory := fun _ _ => rfl

theorem frame_setV {regs : List Reg} {r : Reg} (h : r ∈ regs) (parts : List Part) (stored : Nat → Prop) (s : State)
    (b : Byte) : Frame regs parts stored s (s.setV r b) where
  regs := fun q hq => getV_setV_ne s (fun e : q = r => hq (e ▸ h)) b
  parts := fun p _ => by cases p <;> rfl
  memory := fun _ _ => rfl

theorem frame_setPc {parts : List Part} (h : Part.pc ∈ parts) (regs : List Reg) (stored : Nat → Prop) (s : State)
    (w : Word) : Frame regs parts stored s (s.setPc w) where
  regs := fun _ _ => rfl
  parts := fun p hp => by cases p <;> first | rfl | exact absurd h hp
  memory := fun _ _ => rfl

theorem frame_advance {parts : List Part} (h : Part.pc ∈ parts) (regs : List Reg) (stored : Nat → Prop) (s : State) :
    Frame regs parts stored s s.advance :=
  frame_setPc h regs stored s _

theorem frame_skipIf {parts : List Part} (h : Part.pc ∈ parts) (regs : List Reg) (stored : Nat → Prop) (s : State)
    (c : Bool) : Frame regs parts stored s (s.skipIf c) :=
  frame_setPc h regs stored s _

theorem frame_setI {parts : List Part} (h : Part.i ∈ parts) (regs : List Reg) (stored : Nat → Prop) (s : State)
    (w : Word) : Frame regs parts stored s (s.setI w) where
  regs := fun _ _ => rfl
  parts := fun p hp => by cases p <;> first | rfl | exact absurd h hp
  memory := fun _ _ => rfl

theorem frame_present {parts : List Part} (hf : Part.fb ∈ parts) (hd : Part.draw ∈ parts) (regs : List Reg)
    (stored : Nat → Prop) (s : State) (g : Framebuffer) : Frame regs parts stored s (s.present g) where
  regs := fun _ _ => rfl
  parts := fun p hp => by cases p <;> first | rfl | exact absurd hf hp | exact absurd hd hp
  memory := fun _ _ => rfl

/-- Bytes stored at `a` and up. -/
theorem frame_setMem {s : State} {a : Nat} {bs : List Byte} (hw : s.mem.wf = true) (ha : a + bs.length ≤ memSize)
    (regs : List Reg) (parts : List Part) :
    Frame regs parts (bytesAt a bs.length) s (s.setMem (s.mem.writeAll a bs)) where
  regs := fun _ _ => rfl
  parts := fun p _ => by cases p <;> rfl
  memory := fun q hq => (Memory.read_writeAll hw ha q).trans (if_neg hq)

end Sys2Proof.Machine
end

