-- ==== Sys2Proof/Laws/PerInstr.lean ====
section
/-! SUPPORT. The per-instruction family RowMatch: the word of each instruction matches its row of the opcode map
(spec/30_encoding.md R86). -/

namespace Sys2Proof.Laws.RowMatch

/-- The encoding of `i` has the fixed bits of its row. -/
def Statement (i : Instr) : Prop := i.row.matches (encode i) = true

theorem formA (op : BitVec 4) (nnn : Addr12) : encodeA op nnn &&& 0xF000#16 = encodeA op 0 := by
  unfold encodeA; ext i hi; interval_cases i <;> simp

theorem formXB (op : BitVec 4) (x : Reg) (nn : Byte) : encodeXB op x nn &&& 0xF000#16 = encodeXB op 0 0 := by
  unfold encodeXB; ext i hi; interval_cases i <;> simp [regBits]

theorem formXF (op : BitVec 4) (x : Reg) (nn : Byte) : encodeXB op x nn &&& 0xF0FF#16 = encodeXB op 0 nn := by
  unfold encodeXB; ext i hi; interval_cases i <;> simp [regBits]

theorem formXY (op : BitVec 4) (x y : Reg) (n : BitVec 4) : encodeXYN op x y n &&& 0xF00F#16 = encodeXYN op 0 0 n := by
  unfold encodeXYN; ext i hi; interval_cases i <;> simp [regBits]

theorem formXYN (op : BitVec 4) (x y : Reg) (n : BitVec 4) : encodeXYN op x y n &&& 0xF000#16 = encodeXYN op 0 0 0 := by
  unfold encodeXYN; ext i hi; interval_cases i <;> simp [regBits]

/-- A word whose masked bits are the row's pattern matches the row. -/
theorem of_eq {r : OpRow} {w : Word} (h : w &&& r.mask = r.pattern) : r.matches w = true := by
  simp [OpRow.matches, h]

theorem cls : Statement .cls := rfl
theorem ret : Statement .ret := rfl
theorem jp (nnn : Addr12) : Statement (.jp nnn) := of_eq (formA _ _)
theorem call (nnn : Addr12) : Statement (.call nnn) := of_eq (formA _ _)
theorem seByte (x : Reg) (nn : Byte) : Statement (.seByte x nn) := of_eq (formXB _ _ _)
theorem sneByte (x : Reg) (nn : Byte) : Statement (.sneByte x nn) := of_eq (formXB _ _ _)
theorem seReg (x y : Reg) : Statement (.seReg x y) := of_eq (formXY _ _ _ _)
theorem ldByte (x : Reg) (nn : Byte) : Statement (.ldByte x nn) := of_eq (formXB _ _ _)
theorem addByte (x : Reg) (nn : Byte) : Statement (.addByte x nn) := of_eq (formXB _ _ _)
theorem ldReg (x y : Reg) : Statement (.ldReg x y) := of_eq (formXY _ _ _ _)
theorem orReg (x y : Reg) : Statement (.orReg x y) := of_eq (formXY _ _ _ _)
theorem andReg (x y : Reg) : Statement (.andReg x y) := of_eq (formXY _ _ _ _)
theorem xorReg (x y : Reg) : Statement (.xorReg x y) := of_eq (formXY _ _ _ _)
theorem addReg (x y : Reg) : Statement (.addReg x y) := of_eq (formXY _ _ _ _)
theorem subReg (x y : Reg) : Statement (.subReg x y) := of_eq (formXY _ _ _ _)
theorem shr (x y : Reg) : Statement (.shr x y) := of_eq (formXY _ _ _ _)
theorem subnReg (x y : Reg) : Statement (.subnReg x y) := of_eq (formXY _ _ _ _)
theorem shl (x y : Reg) : Statement (.shl x y) := of_eq (formXY _ _ _ _)
theorem sneReg (x y : Reg) : Statement (.sneReg x y) := of_eq (formXY _ _ _ _)
theorem ldI (nnn : Addr12) : Statement (.ldI nnn) := of_eq (formA _ _)
theorem jpV0 (nnn : Addr12) : Statement (.jpV0 nnn) := of_eq (formA _ _)
theorem rnd (x : Reg) (nn : Byte) : Statement (.rnd x nn) := of_eq (formXB _ _ _)
theorem drw (x y : Reg) (n : BitVec 4) : Statement (.drw x y n) := of_eq (formXYN _ _ _ _)
theorem skp (x : Reg) : Statement (.skp x) := of_eq (formXF _ _ _)
theorem sknp (x : Reg) : Statement (.sknp x) := of_eq (formXF _ _ _)
theorem ldVxDT (x : Reg) : Statement (.ldVxDT x) := of_eq (formXF _ _ _)
theorem ldVxK (x : Reg) : Statement (.ldVxK x) := of_eq (formXF _ _ _)
theorem ldDTVx (x : Reg) : Statement (.ldDTVx x) := of_eq (formXF _ _ _)
theorem ldSTVx (x : Reg) : Statement (.ldSTVx x) := of_eq (formXF _ _ _)
theorem addIVx (x : Reg) : Statement (.addIVx x) := of_eq (formXF _ _ _)
theorem ldFVx (x : Reg) : Statement (.ldFVx x) := of_eq (formXF _ _ _)
theorem ldBVx (x : Reg) : Statement (.ldBVx x) := of_eq (formXF _ _ _)
theorem stRegs (x : Reg) : Statement (.stRegs x) := of_eq (formXF _ _ _)
theorem ldRegs (x : Reg) : Statement (.ldRegs x) := of_eq (formXF _ _ _)

end Sys2Proof.Laws.RowMatch
end

