-- ==== Sys2Proof/Tests/Slice0.lean ====
section
/-! SUPPORT. The model's own tests: well-formedness, decoding of words written out from the encodings of spec/30_encoding.md
R86, one step of each instruction on the vectors of spec/95_test_vectors.md, and a witness for the hypotheses of every
obligation that has some. Expected values are the spec's. -/

open Sys2Proof Sys2Proof.Machine

/-! ### Helpers -/

/-- The reset state with registers set. -/
def Tests.regs (l : List (Reg × Byte)) : State := l.foldl (fun s p => s.setV p.1 p.2) State.reset

/-- The reset state with registers set and I. -/
def Tests.regsI (l : List (Reg × Byte)) (i : Word) : State := (Tests.regs l).setI i

/-- The reset state with bytes in memory. -/
def Tests.withBytes (s : State) (a : Nat) (bs : List Byte) : State := s.setMem (s.mem.writeAll a bs)

/-- One step of the word `w`, and a check of the state it leaves. -/
def Tests.after (s : State) (w : Nat) (p : State → Bool) : Bool :=
  match step (s.withFetchWord 16 w) with
  | .next t    => p t
  | .fault _   => false
  | .refused _ => false

/-- The outcome is this next state. -/
def Tests.gives (o : Host.Outcome State Fault Refusal) (t : State) : Bool :=
  match o with
  | .next u    => u == t
  | .fault _   => false
  | .refused _ => false

/-- The status that step returns. -/
def Tests.status (s : State) (w : Nat) : Output := stepOutput (s.withFetchWord 16 w)

/-- The status of a fatal condition at 0x200. -/
def Tests.fatal (c : Condition) (op : Word) (info : FaultInfo) : Output :=
  .status (some (.fault { code := c, pc := 0x200, opcode := some op, info := info }))

/-- What a step that executes reports. -/
def Tests.executed : Output := .status (some .executed)

open Tests

/-! ### WellFormed: one word refused for each top nibble that has unused rows (30 R88), and a row the map lacks -/

theorem test_wellFormed_refuses_other_rows :
    opcodeRows.contains ⟨0xF000, 0x0000⟩ = false ∧ opcodeRows.contains ⟨0xF00F, 0x8008⟩ = false ∧
    opcodeRows.contains ⟨0xF0FF, 0xF000⟩ = false := by decide

theorem test_recognized_refuses_0 : recognized 0x0000 = false ∧ recognized 0x0123 = false ∧
    recognized 0x00E1 = false ∧ recognized 0x00FF = false ∧ recognized 0x01E0 = false := by decide
theorem test_recognized_refuses_5 : recognized 0x5121 = false := by decide
theorem test_recognized_refuses_8 : recognized 0x8128 = false ∧ recognized 0x812D = false ∧ recognized 0x812F = false := by
  decide
theorem test_recognized_refuses_9 : recognized 0x9AB3 = false := by decide
theorem test_recognized_refuses_E : recognized 0xE19F = false ∧ recognized 0xE1A0 = false := by decide
theorem test_recognized_refuses_F : recognized 0xF000 = false ∧ recognized 0xF1FF = false ∧
    recognized 0xFA66 = false := by decide
theorem test_rejected_by_name : decodeWord 0x5121 = .error (.unknownOpcode 0x5121) ∧
    decodeWord 0x8128 = .error (.unknownOpcode 0x8128) ∧ decodeBytes [0x12] = .error .tooShort := by decide

/-! ### Decoding: for every constructor a word written out bit by bit from 30 R86 -/

theorem test_decode_screen_and_return :
    decodeWord 0b0000_0000_1110_0000 = .ok .cls ∧ decodeWord 0b0000_0000_1110_1110 = .ok .ret := by decide
theorem test_decode_address_forms :
    decodeWord 0b0001_1010_1011_1100 = .ok (.jp 0xABC) ∧ decodeWord 0b0010_0011_0000_0001 = .ok (.call 0x301) ∧
    decodeWord 0b1010_1111_1111_1110 = .ok (.ldI 0xFFE) ∧ decodeWord 0b1011_0101_0000_0010 = .ok (.jpV0 0x502) := by decide
theorem test_decode_immediate_forms :
    decodeWord 0b0011_0001_0100_0010 = .ok (.seByte 1 0x42) ∧ decodeWord 0b0100_0010_1000_0001 = .ok (.sneByte 2 0x81) ∧
    decodeWord 0b0110_1010_0101_1100 = .ok (.ldByte 10 0x5C) ∧ decodeWord 0b0111_1111_0000_0001 = .ok (.addByte 15 0x01) ∧
    decodeWord 0b1100_0011_0000_1111 = .ok (.rnd 3 0x0F) := by decide
theorem test_decode_register_forms :
    decodeWord 0b0101_0001_0010_0000 = .ok (.seReg 1 2) ∧ decodeWord 0b1001_1110_0111_0000 = .ok (.sneReg 14 7) ∧
    decodeWord 0b1000_0001_0010_0000 = .ok (.ldReg 1 2) ∧ decodeWord 0b1000_0011_0100_0001 = .ok (.orReg 3 4) ∧
    decodeWord 0b1000_0101_0110_0010 = .ok (.andReg 5 6) ∧ decodeWord 0b1000_0111_1000_0011 = .ok (.xorReg 7 8) ∧
    decodeWord 0b1000_1001_1010_0100 = .ok (.addReg 9 10) ∧ decodeWord 0b1000_1011_1100_0101 = .ok (.subReg 11 12) ∧
    decodeWord 0b1000_1101_1110_0110 = .ok (.shr 13 14) ∧ decodeWord 0b1000_1111_0000_0111 = .ok (.subnReg 15 0) ∧
    decodeWord 0b1000_0001_0011_1110 = .ok (.shl 1 3) := by decide
theorem test_decode_draw : decodeWord 0b1101_0011_0100_1111 = .ok (.drw 3 4 15) := by decide
theorem test_decode_key_forms :
    decodeWord 0b1110_0010_1001_1110 = .ok (.skp 2) ∧ decodeWord 0b1110_0110_1010_0001 = .ok (.sknp 6) := by decide
theorem test_decode_F_forms :
    decodeWord 0b1111_0011_0000_0111 = .ok (.ldVxDT 3) ∧ decodeWord 0b1111_0101_0000_1010 = .ok (.ldVxK 5) ∧
    decodeWord 0b1111_0001_0001_0101 = .ok (.ldDTVx 1) ∧ decodeWord 0b1111_0010_0001_1000 = .ok (.ldSTVx 2) ∧
    decodeWord 0b1111_0100_0001_1110 = .ok (.addIVx 4) ∧ decodeWord 0b1111_0000_0010_1001 = .ok (.ldFVx 0) ∧
    decodeWord 0b1111_0111_0011_0011 = .ok (.ldBVx 7) ∧ decodeWord 0b1111_1001_0101_0101 = .ok (.stRegs 9) ∧
    decodeWord 0b1111_1111_0110_0101 = .ok (.ldRegs 15) := by decide
/-- V18: the high byte comes first. -/
theorem test_decode_big_endian : decodeBytes [0x12, 0x34, 0x56] = .ok (.jp 0x234, [0x56]) := by decide
theorem test_encode_formats : encode (.jp 0xABC) = 0x1ABC ∧ encode (.seByte 3 0x42) = 0x3342 ∧
    encode (.seReg 1 2) = 0x5120 ∧ encode (.shl 8 15) = 0x88FE ∧ encode (.drw 13 15 1) = 0xDDF1 ∧
    encode (.ldRegs 2) = 0xF265 := by decide

/-! ### Fetch and step (95 section 2.1) -/

/-- V1, V3: an odd pc, outside memory too. -/
theorem test_fetch_odd : fetch (State.reset.setPc 0x201) = .error .pcMisaligned ∧
    fetch (State.reset.setPc 0x1001) = .error .pcMisaligned := by decide
/-- V2. -/
theorem test_fetch_outside : fetch (State.reset.setPc 0x1000) = .error (.memoryOutOfRange 0x1000) := by decide
/-- V4: the last word of memory executes, and pc leaves memory. -/
theorem test_step_last_word : after (State.reset.setPc 0xFFE) 0x6A01 (fun t => t.getV 10 == 1 && t.pc == 0x1000) = true := by
  decide
/-- V6, V175: what reset memory holds at 0x200. -/
theorem test_step_unknown : stepOutput State.reset = .status (some (.unknown 0x0000 0x200)) ∧
    gives (step State.reset) (State.reset.setPc 0x202) = true := by decide
/-- V17. -/
theorem test_step_halted : gives (step { State.reset with halted := true }) { State.reset with halted := true } = true := by
  decide
/-- V176, the second step: the key number is in the record. -/
theorem test_step_status_fault : status (regs [(1, 0x13)]) 0xE19E = fatal .keyOutOfRange 0xE19E (.key 0x13) := by decide
/-- A run from reset by the host's interface: a load of 12 00 and one step (V23). -/
theorem test_run_from_reset :
    gives (Host.Core.run core 2 { State.reset with schedule := [.load [0x12, 0x00], .step] })
      { State.reset with mem := [(0x200, 0x12)] } = true := by decide

/-! ### Control flow (95 section 2.2) -/

/-- V20: nothing but the halt. -/
theorem test_ret_underflow : status State.reset 0x00EE = fatal .stackUnderflow 0x00EE .none ∧
    after State.reset 0x00EE (fun t => t.halted && t.pc == 0x200 && t.sp == 0) = true := by decide
/-- V21: from a full stack; the entry is kept. -/
theorem test_ret_full : after { State.reset with sp := 16, stack := State.reset.stack.set 15 0x2FE } 0x00EE
    (fun t => t.sp == 15 && t.pc == 0x300 && t.stack[15] == 0x2FE) = true := by decide
/-- V24: an odd target is stored. -/
theorem test_jp_odd : after State.reset 0x1201 (fun t => t.pc == 0x201 && !t.halted) = true := by decide
/-- V25. -/
theorem test_call_overflow : status { State.reset with sp := 16 } 0x2400 = fatal .stackOverflow 0x2400 .none := by decide
/-- V26: the last entry. -/
theorem test_call_last : after { State.reset with sp := 15 } 0x2400
    (fun t => t.stack[15] == 0x200 && t.sp == 16 && t.pc == 0x400) = true := by decide
/-- V28, V29. -/
theorem test_seByte : after (regs [(3, 0x42)]) 0x3342 (·.pc == 0x204) = true ∧
    after (regs [(3, 0x41)]) 0x3342 (·.pc == 0x202) = true := by decide
/-- V30, V31. -/
theorem test_sneByte : after (regs [(3, 0x42)]) 0x4342 (·.pc == 0x202) = true ∧
    after (regs [(3, 0x41)]) 0x4342 (·.pc == 0x204) = true := by decide
/-- V33, V34. -/
theorem test_seReg : after (regs [(1, 7), (2, 8)]) 0x5120 (·.pc == 0x202) = true ∧
    after (regs [(1, 7)]) 0x5110 (·.pc == 0x204) = true := by decide
/-- V35, V36. -/
theorem test_sneReg : after (regs [(1, 1), (2, 2)]) 0x9120 (·.pc == 0x204) = true ∧
    after (regs [(1, 5), (2, 5)]) 0x9120 (·.pc == 0x202) = true := by decide
/-- V37: a skip past the last word raises nothing. -/
theorem test_skip_out_of_memory : after (State.reset.setPc 0xFFC) 0x3000 (fun t => t.pc == 0x1000 && !t.halted) = true := by
  decide
/-- V39, V41: no wrap at 12 bits, and always V0. -/
theorem test_jpV0 : after (regs [(0, 0xFF)]) 0xBFFF (·.pc == 0x10FE) = true ∧
    after (regs [(0, 4), (5, 0x99)]) 0xB500 (·.pc == 0x504) = true := by decide

/-! ### Registers and arithmetic (95 section 2.3 and E4) -/

/-- V51. -/
theorem test_ldByte : after State.reset 0x6FFF (fun t => t.getV 15 == 0xFF && t.pc == 0x202) = true := by decide
/-- V52: no flag. -/
theorem test_addByte : after (regs [(1, 0xFF), (15, 0x77)]) 0x7102 (fun t => t.getV 1 == 1 && t.getV 15 == 0x77) = true := by
  decide
/-- V54. -/
theorem test_ldReg : after (regs [(2, 0x99)]) 0x8120 (·.getV 1 == 0x99) = true := by decide
/-- V55. -/
theorem test_orReg : after (regs [(1, 0xF0), (2, 0x0F), (15, 0x55)]) 0x8121
    (fun t => t.getV 1 == 0xFF && t.getV 15 == 0x55) = true := by decide
/-- V56. -/
theorem test_andReg : after (regs [(1, 0xF0), (2, 0x3C), (15, 0x55)]) 0x8122
    (fun t => t.getV 1 == 0x30 && t.getV 15 == 0x55) = true := by decide
/-- V57, V58. -/
theorem test_xorReg : after (regs [(1, 0xF0), (2, 0x3C), (15, 0x55)]) 0x8123
    (fun t => t.getV 1 == 0xCC && t.getV 15 == 0x55) = true ∧ after (regs [(1, 0x5A)]) 0x8113 (·.getV 1 == 0) = true := by
  decide
/-- E4a, E4b. -/
theorem test_addReg : after (regs [(1, 0xFF), (2, 1)]) 0x8124 (fun t => t.getV 1 == 0 && t.getV 15 == 1) = true ∧
    after (regs [(1, 0x7F), (2, 0x80)]) 0x8124 (fun t => t.getV 1 == 0xFF && t.getV 15 == 0) = true := by decide
/-- V60, V61, V62: VF as x, as y, as both. -/
theorem test_addReg_vF : after (regs [(15, 0x10), (2, 0x20)]) 0x8F24 (·.getV 15 == 0x30) = true ∧
    after (regs [(1, 0xFF), (15, 1)]) 0x81F4 (fun t => t.getV 1 == 0 && t.getV 15 == 1) = true ∧
    after (regs [(15, 0x90)]) 0x8FF4 (·.getV 15 == 0x20) = true := by decide
/-- E4f, E4g. -/
theorem test_subReg : after (regs [(1, 0x10), (2, 0x20)]) 0x8125 (fun t => t.getV 1 == 0xF0 && t.getV 15 == 0) = true ∧
    after (regs [(1, 0x33), (2, 0x33)]) 0x8125 (fun t => t.getV 1 == 0 && t.getV 15 == 1) = true := by decide
/-- V63, V64, V65: VF as x, as y, as both. -/
theorem test_subReg_vF : after (regs [(15, 0x30), (1, 0x10)]) 0x8F15 (·.getV 15 == 0xF1) = true ∧
    after (regs [(1, 5), (15, 3)]) 0x81F5 (fun t => t.getV 1 == 4 && t.getV 15 == 1) = true ∧
    after (regs [(15, 0x5A)]) 0x8FF5 (·.getV 15 == 0) = true := by decide
/-- V66, V68: y is ignored. -/
theorem test_shr : after (regs [(1, 5)]) 0x8106 (fun t => t.getV 1 == 2 && t.getV 15 == 1) = true ∧
    after (regs [(1, 1)]) 0x81F6 (fun t => t.getV 1 == 0 && t.getV 15 == 1) = true := by decide
/-- V69. -/
theorem test_shr_vF : after (regs [(15, 3)]) 0x8F06 (·.getV 15 == 0) = true := by decide
/-- V70, V71. -/
theorem test_subnReg : after (regs [(1, 0x10), (2, 0x20)]) 0x8127 (fun t => t.getV 1 == 0x10 && t.getV 15 == 1) = true ∧
    after (regs [(1, 0x20), (2, 0x10)]) 0x8127 (fun t => t.getV 1 == 0xF0 && t.getV 15 == 0) = true := by decide
/-- V73, V74: VF as x, as y. -/
theorem test_subnReg_vF : after (regs [(15, 5), (1, 0x30)]) 0x8F17 (·.getV 15 == 0x2F) = true ∧
    after (regs [(1, 2), (15, 7)]) 0x81F7 (fun t => t.getV 1 == 0xFF && t.getV 15 == 1) = true := by decide
/-- V75, V76: y is ignored. -/
theorem test_shl : after (regs [(1, 0x81)]) 0x810E (fun t => t.getV 1 == 2 && t.getV 15 == 1) = true ∧
    after (regs [(1, 0x40)]) 0x812E (fun t => t.getV 1 == 0x80 && t.getV 15 == 0) = true := by decide
/-- V78, V79. -/
theorem test_shl_vF : after (regs [(15, 0x80)]) 0x8F0E (·.getV 15 == 2) = true ∧
    after (regs [(15, 0x7F)]) 0x8F0E (·.getV 15 == 0) = true := by decide
/-- V80, V81, V82, for the draw each names. -/
theorem test_rnd : (randomAnd 0xA7 3 0x0F State.reset).getV 3 = 0x07 ∧ (randomAnd 0xFF 3 0x00 State.reset).getV 3 = 0 ∧
    (randomAnd 0x5A 15 0xFF State.reset).getV 15 = 0x5A := by decide

/-! ### The index register and memory (95 section 2.4) -/

/-- V90. -/
theorem test_ldI : after State.reset 0xAFFF (·.i == 0x0FFF) = true := by decide
/-- V91, V93: past 0xFFF with no flag, and modulo 2^16. -/
theorem test_addIVx : after (regsI [(0, 1), (15, 0x55)] 0x0FFF) 0xF01E (fun t => t.i == 0x1000 && t.getV 15 == 0x55) = true ∧
    after (regsI [(0, 0x20)] 0xFFF0) 0xF01E (·.i == 0x0010) = true := by decide
/-- V96, V98: the value is not masked to a digit. -/
theorem test_ldFVx : after (regs [(0, 0x0F)]) 0xF029 (·.i == 0x004B) = true ∧
    after (regs [(0, 0xFF)]) 0xF029 (·.i == 0x04FB) = true := by decide
/-- V103, V106: the last three bytes, and I above 0xFFF. -/
theorem test_ldBVx : after (regsI [(7, 123)] 0xFFD) 0xF733 (fun t => t.mem.read 0xFFD == 1 && t.mem.read 0xFFE == 2 &&
      t.mem.read 0xFFF == 3 && t.i == 0xFFD) = true ∧
    after (regsI [(7, 255)] 0x1300) 0xF733 (fun t => t.mem.read 0x300 == 2 && t.mem.read 0x301 == 5 &&
      t.mem.read 0x302 == 5) = true := by decide
/-- V104, V105: the first address out of range, and no byte written. -/
theorem test_ldBVx_fault : status (regsI [(7, 123)] 0xFFE) 0xF733 = fatal .memoryOutOfRange 0xF733 (.address 0x1000) ∧
    status (regsI [(7, 123)] 0xFFF) 0xF733 = fatal .memoryOutOfRange 0xF733 (.address 0x1000) ∧
    after (regsI [(7, 123)] 0xFFE) 0xF733 (·.mem.read 0xFFE == 0) = true := by decide
/-- V110, V114: the last byte, and an instruction that overwrites itself. -/
theorem test_stRegs : after (regsI [(0, 0x9A)] 0xFFF) 0xF055 (·.mem.read 0xFFF == 0x9A) = true ∧
    after (regsI [(0, 0x6A)] 0x200) 0xF155 (fun t => t.mem.read 0x200 == 0x6A && t.mem.read 0x201 == 0 && t.pc == 0x202) =
      true := by decide
/-- V109. -/
theorem test_stRegs_fault : status (regsI [(0, 7)] 0xFF1) 0xFF55 = fatal .memoryOutOfRange 0xFF55 (.address 0x1000) ∧
    after (regsI [(0, 7)] 0xFF1) 0xFF55 (·.mem.read 0xFF1 == 0) = true := by decide
/-- V111. -/
theorem test_ldRegs : after (withBytes (regsI [(3, 9)] 0x400) 0x400 [0x11, 0x22, 0x33, 0x44]) 0xF265
    (fun t => t.getV 0 == 0x11 && t.getV 1 == 0x22 && t.getV 2 == 0x33 && t.getV 3 == 9 && t.i == 0x400) = true := by decide
/-- V113: no register written. -/
theorem test_ldRegs_fault : status (regsI [(0, 7)] 0xFF1) 0xFF65 = fatal .memoryOutOfRange 0xFF65 (.address 0x1000) ∧
    after (regsI [(0, 7)] 0xFF1) 0xFF65 (·.getV 0 == 7) = true := by decide

/-! ### The display (95 section 2.5 and E6) -/

/-- E3a, V131. -/
theorem test_cls : after { regs [(15, 0x55)] with fb := Vector.replicate 32 (BitVec.allOnes 64), draw := false } 0x00E0
    (fun t => t.fb == Vector.replicate 32 0 && t.draw && t.getV 15 == 0x55) = true := by decide
/-- E6, the first draw: the columns wrap on row 0. -/
theorem test_drw_wraps : after (withBytes (regsI [(0, 60)] 0x300) 0x300 [0xFF]) 0xD011
    (fun t => t.fb == (Vector.replicate 32 0).set 0 0xF00000000000000F#64 && t.getV 15 == 0) = true := by decide
/-- V125: a pixel that was set collides, and the corner of V130. -/
theorem test_drw_collides : after (withBytes { regsI [] 0x300 with fb := State.reset.fb.set 0 2 } 0x300 [0xC0]) 0xD011
    (fun t => t.fb[0] == 1 && t.getV 15 == 1) = true ∧
    after (withBytes (regsI [(0, 0x3F), (1, 0x1F)] 0x300) 0x300 [0xC0, 0xC0]) 0xD012
      (fun t => pixelOf t.fb (63, 31) && pixelOf t.fb (0, 31) && pixelOf t.fb (63, 0) && pixelOf t.fb (0, 0)) = true := by
  decide

/-- V124: index 69 is column 5 of row 1. -/
theorem test_pixel_index : pixelAt 69 = (5, 1) := by decide
/-- P4: glyph 7 of the recommended font is F0 10 20 40 40 at 0x023. -/
theorem test_recommended_font : (recommendedFont.toList.drop 0x23).take 5 = [0xF0, 0x10, 0x20, 0x40, 0x40] := by decide

/-! ### Keys and timers (95 section 2.6) -/

/-- V140, V141. -/
theorem test_skp : after { regs [(2, 0xF)] with key := 0x8000 } 0xE29E (·.pc == 0x204) = true ∧
    after (regs [(2, 0xF)]) 0xE29E (·.pc == 0x202) = true := by decide
/-- V142, V144. -/
theorem test_key_out_of_range : status (regs [(2, 0x10)]) 0xE29E = fatal .keyOutOfRange 0xE29E (.key 0x10) ∧
    status (regs [(2, 0xFF)]) 0xE2A1 = fatal .keyOutOfRange 0xE2A1 (.key 0xFF) := by decide
/-- V143. -/
theorem test_sknp : after { regs [(2, 5)] with key := 0x0020 } 0xE2A1 (·.pc == 0x202) = true ∧
    after (regs [(2, 5)]) 0xE2A1 (·.pc == 0x204) = true := by decide
/-- V149. -/
theorem test_ldVxDT : after { State.reset with delay := 0x3C } 0xF307 (·.getV 3 == 0x3C) = true := by decide
/-- V145, V147. -/
theorem test_ldVxK : after { regs [(3, 0x77)] with key := 0xFFFF } 0xF30A (fun t => t.getV 3 == 0 && t.pc == 0x202) = true ∧
    after { regs [(15, 0x55)] with key := 0x0010 } 0xFF0A (fun t => t.getV 15 == 4 && t.pc == 0x202) = true := by decide
/-- V148. -/
theorem test_ldVxK_waits : status (regs [(3, 0x77)]) 0xF30A = .status (some .waiting) ∧
    after (regs [(3, 0x77)]) 0xF30A (fun t => t.getV 3 == 0x77 && t.pc == 0x200 && !t.halted) = true := by decide
/-- V150. -/
theorem test_ldDTVx : after { State.reset with delay := 5 } 0xF115 (·.delay == 0) = true := by decide
/-- V151. -/
theorem test_ldSTVx : after (regs [(1, 2)]) 0xF118 (·.sound == 2) = true := by decide
/-- E8, V153, V155. -/
theorem test_tick : tickTone { State.reset with sound := 1 } = true ∧ (tickTxn { State.reset with sound := 1 }).sound = 0 ∧
    tickTone State.reset = false ∧ (tickTxn State.reset).sound = 0 ∧
    tickTone { State.reset with sound := 1, halted := true } = false ∧
    (tickTxn { State.reset with sound := 1, halted := true }).sound = 1 := by decide

/-- The codes of 60 R210. -/
theorem test_condition_codes :
    [Condition.stackOverflow, .stackUnderflow, .memoryOutOfRange, .pcMisaligned, .keyOutOfRange, .romTooLarge,
      .unknownOpcode].map Condition.code = [1, 2, 3, 4, 5, 6, 7] := by decide

/-! ### Load (95 section 2.7 and E1) -/

/-- E1b: from any state, a halted one here. -/
theorem test_load_too_large : txnOutput (.load (List.replicate 3585 0)) State.reset = .load (.romTooLarge 3585) ∧
    loadTxn (List.replicate 3585 0) { State.reset with halted := true } = { State.reset with halted := true } := by
  constructor
  · rw [txnOutput, loadResult, List.length_replicate]; rfl
  · rw [loadTxn, List.length_replicate]; rfl
/-- V173. -/
theorem test_load : loadTxn [0x12, 0x00] { State.reset with halted := true, pc := 0x400 } =
    { State.reset with mem := [(0x200, 0x12)] } := by decide

/-! ### Witnesses: for each statement of Certificates/Slice0/Obligations.lean that has hypotheses, a state and operands that
meet them all; one for each clause, at a boundary of its range. A statement not named here has none. -/

/-- A state for the witnesses: halted by the 00EE at 0x300 with an empty stack. -/
def Tests.haltedAtRet : State :=
  { State.reset with
    pc := 0x300, mem := [(0x301, 0xEE)], halted := true,
    fault := some { code := .stackUnderflow, pc := 0x300, opcode := some 0x00EE, info := .none } }

theorem witness_EncodeOfDecode : decodeWord 0x8126 = .ok (.shr 1 2) := by decide

theorem witness_DecodeFollowsOpcodeMap :
    (⟨0xF00F, 0x8006⟩ ∈ opcodeRows ∧ OpRow.matches ⟨0xF00F, 0x8006⟩ 0x8126 = true) ∧ recognized 0x8008 = false := by decide

theorem witness_FetchReadsTheWordAtPc :
    (State.reset.setPc 0xFFF).pc[0] = true ∧
    ((State.reset.setPc 0x1000).pc[0] = false ∧ 0xFFE < (State.reset.setPc 0x1000).pc.toNat) ∧
    ((State.reset.setPc 0xFFE).pc[0] = false ∧ (State.reset.setPc 0xFFE).pc.toNat ≤ 0xFFE) := by decide

/-- The word of the last instruction in memory. -/
theorem witness_StepRunsTheDecodedInstruction :
    let s := (State.reset.setPc 0xFFE).withFetchWord 16 0x6A01
    s.schedule = [] ∧ s.halted = false ∧ fetch s = .ok 0x6A01 ∧ decodeWord 0x6A01 = .ok (.ldByte 10 1) := by decide

theorem witness_UnknownOpcodeIsReportedAndSkipped :
    State.reset.schedule = [] ∧ State.reset.halted = false ∧ fetch State.reset = .ok 0x0000 ∧ recognized 0x0000 = false := by
  decide

theorem witness_FailedFetchHalts :
    ((State.reset.setPc 0x1001).schedule = [] ∧ (State.reset.setPc 0x1001).halted = false ∧
      (State.reset.setPc 0x1001).pc[0] = true) ∧
    ((State.reset.setPc 0x1000).schedule = [] ∧ (State.reset.setPc 0x1000).halted = false ∧
      (State.reset.setPc 0x1000).pc[0] = false ∧ 0x1000 ≤ (State.reset.setPc 0x1000).pc.toNat) := by decide

theorem witness_HaltedCoreExecutesNothing :
    haltedAtRet.halted = true ∧ (List.replicate 3584 (0 : Byte)).length ≤ 3584 :=
  ⟨rfl, by rw [List.length_replicate]⟩

theorem witness_ReturnPops :
    State.reset.sp = 0 ∧ ({ State.reset with sp := 1 } : State).sp.val = (0 : Fin 16).val + 1 ∧
    ({ State.reset with sp := 16 } : State).sp.val = (15 : Fin 16).val + 1 := by decide

theorem witness_CallPushes :
    ({ State.reset with sp := 16 } : State).sp = 16 ∧ State.reset.sp.val = (0 : Fin 16).val ∧
    ({ State.reset with sp := 15 } : State).sp.val = (15 : Fin 16).val ∧ (14 : Fin 16) ≠ 15 := by decide

/-- The first and the last entry the call can write, with an entry above it and one below it. -/
theorem witness_CallThenReturn :
    (State.reset.sp.val < 16 ∧ (15 : Fin 16).val ≠ State.reset.sp.val) ∧
    (({ State.reset with sp := 15 } : State).sp.val < 16 ∧
      (14 : Fin 16).val ≠ ({ State.reset with sp := 15 } : State).sp.val) := by decide

/-- x is not VF; 8XY4's flag clause has no other hypothesis. -/
theorem witness_AddWithCarry : (14 : Reg) ≠ vF := by decide

/-- V64 (y = VF), V63 (x = VF), V65 (both): the flag and the operands as read after it was written. -/
theorem witness_SubtractWithBorrowFlag :
    (∃ f a b : Nat, let s := regs [(1, 5), (15, 3)]
      f = (if (s.getV 1).toNat < (s.getV 15).toNat then 0 else 1) ∧
      a = (if (1 : Reg) = vF then f else (s.getV 1).toNat) ∧ b = (if (15 : Reg) = vF then f else (s.getV 15).toNat) ∧
      (1 : Reg) ≠ vF) ∧
    (∃ f a b : Nat, let s := regs [(15, 0x30), (1, 0x10)]
      f = (if (s.getV 15).toNat < (s.getV 1).toNat then 0 else 1) ∧
      a = (if (15 : Reg) = vF then f else (s.getV 15).toNat) ∧ b = (if (1 : Reg) = vF then f else (s.getV 1).toNat)) :=
  ⟨⟨1, 5, 1, by decide⟩, ⟨1, 1, 0x10, by decide⟩⟩

/-- V74 (y = VF), V73 (x = VF). -/
theorem witness_ReverseSubtractWithBorrowFlag :
    (∃ f a b : Nat, let s := regs [(1, 2), (15, 7)]
      f = (if (s.getV 15).toNat < (s.getV 1).toNat then 0 else 1) ∧
      a = (if (1 : Reg) = vF then f else (s.getV 1).toNat) ∧ b = (if (15 : Reg) = vF then f else (s.getV 15).toNat) ∧
      (1 : Reg) ≠ vF) ∧
    (∃ f a b : Nat, let s := regs [(15, 5), (1, 0x30)]
      f = (if (s.getV 1).toNat < (s.getV 15).toNat then 0 else 1) ∧
      a = (if (15 : Reg) = vF then f else (s.getV 15).toNat) ∧ b = (if (1 : Reg) = vF then f else (s.getV 1).toNat)) :=
  ⟨⟨1, 2, 1, by decide⟩, ⟨1, 1, 0x30, by decide⟩⟩

theorem witness_ShiftsByOne : (0 : Reg) ≠ vF ∧ (15 : Reg) = vF := by decide

theorem witness_StoreDecimalDigits :
    ((regsI [] 0xFFD).mem.wf = true ∧ ea (regsI [] 0xFFD) 2 ≤ 0xFFF) ∧
    (0xFFF < ea (regsI [] 0xFFE) 2 ∧ ∀ j < 2, ea (regsI [] 0xFFE) j ≤ 0xFFF) ∧
    (0xFFF < ea (regsI [] 0xFFF) 1 ∧ ∀ j < 1, ea (regsI [] 0xFFF) j ≤ 0xFFF) := by decide

theorem witness_StoreRegisters :
    ((regsI [] 0xFF0).mem.wf = true ∧ ea (regsI [] 0xFF0) (15 : Reg).val ≤ 0xFFF ∧ (15 : Reg) ≤ 15) ∧
    (15 ≤ (15 : Reg).val ∧ 0xFFF < ea (regsI [] 0xFF1) 15 ∧ ∀ j < 15, ea (regsI [] 0xFF1) j ≤ 0xFFF) := by decide

theorem witness_LoadRegisters :
    (ea (regsI [] 0x1FFF) (0 : Reg).val ≤ 0xFFF ∧ (0 : Reg) ≤ 0) ∧
    (1 ≤ (1 : Reg).val ∧ 0xFFF < ea (regsI [] 0x1FFF) 1 ∧ ∀ j < 1, ea (regsI [] 0x1FFF) j ≤ 0xFFF) := by decide

theorem witness_EffectiveAddress : 0xFFF < ea (regsI [] 0x1FFF) 1 ∧ ea (regsI [] 0x1FFF) 0 ≤ 0xFFF := by decide

theorem witness_MemoryReadsLastWrite : Memory.wf [(0x200, 0x12)] = true ∧ 0xFFF ≤ 0xFFF ∧ (0x200 : Nat) ≠ 0xFFF := by decide

/-- V0 = 60 and V1 = 05 stored at 0x300 and the pc set there. -/
theorem witness_StoreIsSeenByFetch :
    ∃ s t u : State, s.mem.wf = true ∧ ea s (1 : Reg).val ≤ 0xFFF ∧ exec (.stRegs 1) s = .next t ∧ 0 + 1 ≤ (1 : Reg).val ∧
      u.mem = t.mem ∧ u.pc.toNat = ea s 0 ∧ u.pc[0] = false :=
  ⟨regsI [(0, 0x60), (1, 0x05)] 0x300, _, { State.reset with mem := [(0x300, 0x60), (0x301, 0x05)], pc := 0x300 },
    by decide, by decide, rfl, by decide, by decide, by decide, by decide⟩

theorem witness_DrawFlipsTheSprite :
    ea (regsI [] 0xFFF) 0 + (1 : BitVec 4).toNat ≤ 0x1000 ∧
    (1 < (2 : BitVec 4).toNat ∧ 0xFFF < ea (regsI [] 0xFFF) 1 ∧ ∀ j < 1, ea (regsI [] 0xFFF) j ≤ 0xFFF) := by decide

/-- The pixel a set bit addresses across the screen's corner, one that a clear bit does, and both collision clauses. -/
theorem witness_DrawFlipsTheSprite_pixels :
    let s := withBytes (regsI [(0, 0x3F), (1, 0x1F)] 0x300) 0x300 [0xC0, 0xC0]
    SpriteCovers s 0 1 (2 : BitVec 4).toNat (0, 0) ∧ ¬ SpriteCovers s 0 1 (2 : BitVec 4).toNat (1, 0) ∧
    (∃ fb, SpriteCovers { s with fb := fb } 0 1 (2 : BitVec 4).toNat (0, 0) ∧ pixelOf fb (0, 0) = true) ∧
    ∀ p, SpriteCovers s 0 1 (2 : BitVec 4).toNat p → pixelOf s.fb p = false :=
  ⟨⟨1, by decide, 1, by decide⟩, by unfold SpriteCovers; decide,
    ⟨State.reset.fb.set 0 1, ⟨1, by decide, 1, by decide⟩, by decide⟩, fun p _ => by simp [withBytes, regsI, regs, pixelOf,
      State.setMem, State.setI, State.setV, State.reset]⟩

theorem witness_SpritePixelsAreDistinct : (List.replicate 15 (0xFF : Byte)).length ≤ 15 ∧
    [((1, 0) : Pixel), (0, 0)].Perm (spritePixels 0 0 0 [0xC0]) := by decide

theorem witness_DrawTwiceErases :
    ∃ s t u : State, (0 : Reg) ≠ vF ∧ (1 : Reg) ≠ vF ∧ ea s 0 + (1 : BitVec 4).toNat ≤ 0x1000 ∧
      exec (.drw 0 1 1) s = .next t ∧ exec (.drw 0 1 1) t = .next u :=
  ⟨withBytes (regsI [(0, 60)] 0x300) 0x300 [0xFF], _, _, by decide, by decide, by decide, rfl, rfl⟩

theorem witness_KeySkips : ((regs [(2, 0xF)]).getV 2).toNat ≤ 0xF ∧ 0xF < ((regs [(2, 0x10)]).getV 2).toNat := by decide

theorem witness_WaitForKey :
    (State.reset.halted = false ∧ ∀ j < 16, State.reset.key.getLsbD j = false) ∧
    ((0x8000 : BitVec 16).getLsbD 15 = true ∧ ∀ j < 15, (0x8000 : BitVec 16).getLsbD j = false) ∧
    ((0xFFFF : BitVec 16).getLsbD 0 = true ∧ ∀ j < 0, (0xFFFF : BitVec 16).getLsbD j = false) := by decide

theorem witness_TickCountsDown : State.reset.halted = false ∧ haltedAtRet.halted = true ∧
    txnOutput .tick { State.reset with sound := 1 } = .tone true := by decide

/-- 2400 with a full stack, and a fetch outside memory. -/
theorem witness_FatalConditionsArePrecise :
    (∃ s t : State, s.halted = false ∧ transact .step s = .next t ∧ t.halted = true ∧ fetch s = .ok 0x2400) ∧
    (∃ s t : State, s.halted = false ∧ transact .step s = .next t ∧ t.halted = true ∧
      fetch s = .error (.memoryOutOfRange 0x1000)) :=
  ⟨⟨State.withFetchWord { State.reset with sp := 16 } 16 0x2400, _, rfl, rfl, rfl, rfl⟩,
    ⟨State.reset.setPc 0x1000, _, rfl, rfl, rfl, rfl⟩⟩

/-- FF65 with its last byte outside memory, and an odd pc. -/
theorem witness_WhichConditionAnInstructionRaises :
    (∃ s t : State, s.halted = false ∧ exec (.ldRegs 15) s = .next t ∧ t.halted = true) ∧
    (∃ s : State, s.halted = false ∧ fetch s = .error .pcMisaligned) :=
  ⟨⟨regsI [] 0xFF1, _, rfl, rfl, rfl⟩, ⟨State.reset.setPc 0x201, rfl, rfl⟩⟩

theorem witness_OnlyResetAndLoadEndAHalt :
    ∃ t : State, haltedAtRet.halted = true ∧ transact (.load []) haltedAtRet = .next t ∧ t.halted = false :=
  ⟨_, rfl, rfl, rfl⟩

/-- FF55 that stores up to the last byte, and one that raises. -/
theorem witness_InstructionsWriteOnlyTheirOwn :
    (∃ s t : State, s.mem.wf = true ∧ s.halted = false ∧ exec (.stRegs 15) s = .next t ∧ t.halted = false) ∧
    (∃ s t : State, s.mem.wf = true ∧ s.halted = false ∧ exec (.stRegs 15) s = .next t ∧ t.halted = true) :=
  ⟨⟨regsI [] 0xFF0, _, rfl, rfl, rfl, rfl⟩, ⟨regsI [] 0xFF1, _, rfl, rfl, rfl, rfl⟩⟩

/-- BFFF with V0 = FF. -/
theorem witness_PcFollowsTheTable :
    ∃ s t : State, s.halted = false ∧ exec (.jpV0 0xFFF) s = .next t ∧ t.halted = false :=
  ⟨regs [(0, 0xFF)], _, rfl, rfl, rfl⟩

/-- 8126 does not read V2. -/
theorem witness_UnreadRegistersDoNotMatter :
    ∃ s t : State, (2 : Reg) ∉ readsV (.shr 1 2) ∧ exec (.shr 1 2) s = .next t :=
  ⟨regs [(1, 5), (2, 9)], _, by decide, rfl⟩

theorem witness_KeysAndTimersAreReadOnlyByTheirInstructions :
    ∃ s t : State, exec (.ldSTVx 1) s = .next t ∧
      (∀ x, (.ldSTVx 1 : Instr) ≠ .skp x ∧ (.ldSTVx 1 : Instr) ≠ .sknp x ∧ (.ldSTVx 1 : Instr) ≠ .ldVxK x) ∧
      ∀ x, (.ldSTVx 1 : Instr) ≠ .ldVxDT x :=
  ⟨regs [(1, 2)], _, rfl, by decide, by decide⟩

theorem witness_LoadCopiesTheRom :
    (List.replicate 3584 (1 : Byte)).length ≤ 3584 ∧ 3584 < (List.replicate 3585 (1 : Byte)).length ∧
    3583 < (List.replicate 3584 (1 : Byte)).length := by
  rw [List.length_replicate, List.length_replicate]; decide

/-- V23 and V148. -/
theorem witness_IdleAndWaitingRepeat :
    Idle (State.reset.withFetchWord 16 0x1200) ∧ Waiting (State.reset.withFetchWord 16 0xF30A) :=
  ⟨⟨by decide, 0x200, by decide, by decide⟩, ⟨by decide, by decide, 3, by decide⟩⟩

/-- The schedule set_keys, tick, load, step. -/
theorem witness_ScheduleGivesEveryInterleaving :
    ∃ t : State, State.reset.schedule = [] ∧
      runTxns [.setKeys 1, .tick, .load [0x12, 0x00], .step] State.reset = .next t :=
  ⟨_, rfl, rfl⟩

/-- A state of the invariant that is halted, with its record, and one whose step halts it. -/
theorem witness_InvariantIsKept :
    (haltedAtRet.Inv ∧ transact .tick haltedAtRet = .next haltedAtRet) ∧
    (({ haltedAtRet with halted := false, fault := none } : State).Inv ∧
      step { haltedAtRet with halted := false, fault := none } = .next haltedAtRet) := by
  have hs : ∀ k : Fin 16, EvenWord haltedAtRet.stack[k] ∧ haltedAtRet.stack[k].toNat ≤ 0xFFE := by
    intro k
    simp [haltedAtRet, State.reset, EvenWord]
  refine ⟨⟨⟨by decide, hs, by decide, rfl, ?_⟩, rfl⟩, ⟨⟨by decide, hs, by decide, rfl, fun r h => nomatch h⟩, rfl⟩⟩
  intro r h
  cases h
  exact ⟨rfl, rfl, ⟨0x00EE, by decide, rfl⟩, rfl⟩
end

section
/-! PROOFS. What an instruction that can raise does, by the condition of its rule; every other instruction has one
next state, which its arm of `exec` computes. -/

namespace Sys2Proof.Machine

/-! ### Instructions that can raise -/

theorem sp_eq_zero_or (s : State) : s.sp = 0 ∨ s.sp.val ≠ 0 :=
  (eq_or_ne s.sp 0).imp_right fun h e => h (Fin.ext e)

theorem sp_eq_full_or (s : State) : s.sp = 16 ∨ s.sp.val < 16 :=
  (Nat.lt_or_ge s.sp.val 16).symm.imp_left fun h => Fin.ext (Nat.le_antisymm (by omega) h)

/-- The answer of an instruction that takes the fatal condition `c` at `s` (60 R212). -/
def raised (i : Instr) (c : Raised) (s : State) : Host.Outcome State Fault Refusal :=
  .next (takeFatal c (some (encode i)) s)

variable {s : State}

theorem exec_ret_empty (h : s.sp = 0) : exec .ret s = raised .ret .stackUnderflow s := by
  simp only [exec, execRet, pop_empty h, conclude_error, raised]

theorem exec_ret_nonempty (h : s.sp.val ≠ 0) :
    exec .ret s = .next (({ s with sp := ⟨s.sp.val - 1, by omega⟩ } : State).setPc
      (s.stack[s.sp.val - 1]'(by omega) + 2)) := by
  simp only [exec, execRet, pop_ok h, conclude_ok]

theorem exec_call_full (nnn : Addr12) (h : s.sp = 16) :
    exec (.call nnn) s = raised (.call nnn) .stackOverflow s := by
  simp only [exec, execCall, push_full h, conclude_error, raised]

theorem exec_call_room (nnn : Addr12) (h : s.sp.val < 16) :
    exec (.call nnn) s = .next (({ s with stack := s.stack.set s.sp.val s.pc, sp := ⟨s.sp.val + 1, by omega⟩ } :
      State).setPc (addrOperand nnn)) := by
  simp only [exec, execCall, push_ok h, conclude_ok]

/-- The `n` bytes of memory from EA(0) up. -/
def bytesAtI (s : State) (n : Nat) : List Byte := (List.range n).map fun k => s.mem.read (ea s 0 + k)

@[simp] theorem bytesAtI_length (n : Nat) : (bytesAtI s n).length = n := by
  simp [bytesAtI]

theorem exec_drw_inside (x y : Reg) {n : BitVec 4} (h : ea s 0 + n.toNat ≤ 0x1000) :
    exec (.drw x y n) s = .next (drawSprite x y (bytesAtI s n.toNat) s) := by
  simp only [exec, execDrw, readBytes_ok h, conclude_ok, bytesAtI]

theorem exec_drw_outside (x y : Reg) {n : BitVec 4} (h : 0x1000 < ea s 0 + n.toNat) :
    exec (.drw x y n) s = raised (.drw x y n) (.memoryOutOfRange 0x1000) s := by
  simp only [exec, execDrw, readBytes_error (ea_zero_lt s).le h, conclude_error, raised]

theorem exec_ldRegs_inside {x : Reg} (h : ea s 0 + (x.val + 1) ≤ 0x1000) :
    exec (.ldRegs x) s = .next (s.setVsFrom 0 (bytesAtI s (x.val + 1))).advance := by
  simp only [exec, execLdRegs, readBytes_ok h, conclude_ok, bytesAtI]

theorem exec_ldRegs_outside {x : Reg} (h : 0x1000 < ea s 0 + (x.val + 1)) :
    exec (.ldRegs x) s = raised (.ldRegs x) (.memoryOutOfRange 0x1000) s := by
  simp only [exec, execLdRegs, readBytes_error (ea_zero_lt s).le h, conclude_error, raised]

theorem storeAtI_inside {bs : List Byte} (h : ea s 0 + bs.length ≤ 0x1000) :
    storeAtI bs s = .ok (s.setMem (s.mem.writeAll (ea s 0) bs)).advance := by
  simp only [storeAtI, writeBytes_ok h]

theorem storeAtI_outside {bs : List Byte} (h : 0x1000 < ea s 0 + bs.length) :
    storeAtI bs s = .error (.memoryOutOfRange 0x1000) := by
  simp only [storeAtI, writeBytes_error (ea_zero_lt s).le h]

theorem exec_ldBVx_inside (x : Reg) (h : ea s 0 + 3 ≤ 0x1000) :
    exec (.ldBVx x) s = .next (s.setMem (s.mem.writeAll (ea s 0) (bcdDigits (s.getV x)))).advance := by
  simp only [exec, execLdBVx, storeAtI_inside (bs := bcdDigits (s.getV x)) h, conclude_ok]

theorem exec_ldBVx_outside (x : Reg) (h : 0x1000 < ea s 0 + 3) :
    exec (.ldBVx x) s = raised (.ldBVx x) (.memoryOutOfRange 0x1000) s := by
  simp only [exec, execLdBVx, storeAtI_outside (bs := bcdDigits (s.getV x)) h, conclude_error, raised]

theorem exec_stRegs_inside {x : Reg} (h : ea s 0 + (x.val + 1) ≤ 0x1000) :
    exec (.stRegs x) s = .next (s.setMem (s.mem.writeAll (ea s 0) (s.regsUpTo x))).advance := by
  rw [← regsUpTo_length s x] at h
  simp only [exec, execStRegs, storeAtI_inside h, conclude_ok]

theorem exec_stRegs_outside {x : Reg} (h : 0x1000 < ea s 0 + (x.val + 1)) :
    exec (.stRegs x) s = raised (.stRegs x) (.memoryOutOfRange 0x1000) s := by
  rw [← regsUpTo_length s x] at h
  simp only [exec, execStRegs, storeAtI_outside h, conclude_error, raised]

theorem keyOf_ok {x : Reg} {v : Byte} (hv : s.getV x = v) (h : v.toNat ≤ 0xF) :
    s.keyOf x = .ok (s.key.getLsbD v.toNat) := by
  subst hv; exact if_neg (by omega)

theorem keyOf_error {x : Reg} {v : Byte} (hv : s.getV x = v) (h : 0xF < v.toNat) :
    s.keyOf x = .error (.keyOutOfRange v) := by
  subst hv; exact if_pos h

theorem exec_skp_key {x : Reg} {v : Byte} (hv : s.getV x = v) (h : v.toNat ≤ 0xF) :
    exec (.skp x) s = .next (s.skipIf (s.key.getLsbD v.toNat)) := by
  simp only [exec, execSkp, keyOf_ok hv h, conclude_ok]

theorem exec_skp_noKey {x : Reg} {v : Byte} (hv : s.getV x = v) (h : 0xF < v.toNat) :
    exec (.skp x) s = raised (.skp x) (.keyOutOfRange v) s := by
  simp only [exec, execSkp, keyOf_error hv h, conclude_error, raised]

theorem exec_sknp_key {x : Reg} {v : Byte} (hv : s.getV x = v) (h : v.toNat ≤ 0xF) :
    exec (.sknp x) s = .next (s.skipIf (!s.key.getLsbD v.toNat)) := by
  simp only [exec, execSknp, keyOf_ok hv h, conclude_ok]

theorem exec_sknp_noKey {x : Reg} {v : Byte} (hv : s.getV x = v) (h : 0xF < v.toNat) :
    exec (.sknp x) s = raised (.sknp x) (.keyOutOfRange v) s := by
  simp only [exec, execSknp, keyOf_error hv h, conclude_error, raised]

/-! ### FX0A -/

theorem exec_ldVxK_waiting (x : Reg) (h : s.key = 0) : exec (.ldVxK x) s = .next s := by
  simp only [exec, execLdVxK, lowestKey_none.mpr h, conclude_ok]

theorem exec_ldVxK_pressed (x : Reg) {k : Nat} (h : lowestKey s.key = some k) :
    exec (.ldVxK x) s = .next (s.setV x (BitVec.ofNat 8 k)).advance := by
  simp only [exec, execLdVxK, h, conclude_ok]

end Sys2Proof.Machine
end

section
/-! PROOFS. Everything an instruction can do (`exec_cases`): the effect its rule gives it, or a fatal condition whose
cause holds. The statements of 10_state.md about all instructions follow from it. -/

namespace Sys2Proof.Machine

/-! ### Frames of the updates that Laws/Frame.lean does not name -/

theorem frame_setVF {regs : List Reg} (h : vF ∈ regs) (parts : List Part) (stored : Nat → Prop) (s : State)
    (f : Byte) : Frame regs parts stored s (s.setVF f) :=
  frame_setV h parts stored s f

/-- An update of one field. -/
theorem Frame.of_part {regs : List Reg} {parts : List Part} {stored : Nat → Prop} {q : Part} {s t : State}
    (h : q ∈ parts) (hv : t.v = s.v) (hm : t.mem = s.mem) (hs : ∀ p ≠ q, p.same s t) :
    Frame regs parts stored s t where
  regs := fun r _ => by simp only [getV_eq, hv]
  parts := fun p hp => hs p fun e => hp (e ▸ h)
  memory := fun _ _ => by rw [hm]

theorem frame_setDelay {parts : List Part} (h : Part.delay ∈ parts) (regs : List Reg) (stored : Nat → Prop)
    (s : State) (b : Byte) : Frame regs parts stored s (s.setDelay b) :=
  .of_part h rfl rfl fun p _ => by cases p <;> simp_all [Part.same]

theorem frame_setSound {parts : List Part} (h : Part.sound ∈ parts) (regs : List Reg) (stored : Nat → Prop)
    (s : State) (b : Byte) : Frame regs parts stored s (s.setSound b) :=
  .of_part h rfl rfl fun p _ => by cases p <;> simp_all [Part.same]

theorem frame_countDraw {parts : List Part} (h : Part.draws ∈ parts) (regs : List Reg) (stored : Nat → Prop)
    (s : State) : Frame regs parts stored s s.countDraw :=
  .of_part h rfl rfl fun p _ => by cases p <;> simp_all [Part.same]

theorem frame_setKeysTxn (k : BitVec 16) (s : State) : Frame [] [.key] noBytes s (setKeysTxn k s) :=
  .of_part (.head _) rfl rfl fun p _ => by cases p <;> simp_all [Part.same]

theorem frame_drawAckTxn (s : State) : Frame [] [.draw] noBytes s (drawAckTxn s) :=
  .of_part (.head _) rfl rfl fun p _ => by cases p <;> simp_all [Part.same]

/-- The call stack and its pointer written. -/
theorem frame_stack {parts : List Part} (regs : List Reg) (stored : Nat → Prop) (s : State) (st : Vector Word 16)
    (p : Fin 17) (hst : st = s.stack ∨ Part.stack ∈ parts) (hp : Part.sp ∈ parts) :
    Frame regs parts stored s { s with stack := st, sp := p } where
  regs := fun _ _ => rfl
  parts := fun q hq => by
    have h1 : q ≠ .sp := fun e => hq (e ▸ hp)
    have h2 : q = .stack → st = s.stack := fun e => hst.resolve_right (e ▸ hq)
    cases q <;> simp_all [Part.same]
  memory := fun _ _ => rfl

theorem mem_regsTo {r x : Reg} : r ∈ regsTo x ↔ r ≤ x := by
  simp [regsTo]

theorem frame_setVsFrom {x : Reg} {bs : List Byte} (h : bs.length = x.val + 1) (parts : List Part)
    (stored : Nat → Prop) (s : State) : Frame (regsTo x) parts stored s (s.setVsFrom 0 bs) := by
  rw [setVsFrom_eq]
  refine frame_v (fun r hr => ?_) parts stored
  have hlt : x.val < r.val := not_le.mp (mt mem_regsTo.mpr hr)
  exact (getV_setVsFrom s 0 bs r).trans (if_neg (by omega))

/-! ### The effect of an instruction that raises nothing -/

theorem pc_mem_writesParts (i : Instr) : Part.pc ∈ writesParts i := by
  cases i <;> exact .head _

theorem halted_notMem_writesParts (i : Instr) : Part.halted ∉ writesParts i := by
  cases i <;> simp [writesParts]

theorem fault_notMem_writesParts (i : Instr) : Part.fault ∉ writesParts i := by
  cases i <;> simp [writesParts]

/-- From `s` to `t` goes what the tables give `i` (10 R22, R25): its frame, its new pc, memory in canonical form, and
no stack entry but the address of `i` (40 R102). -/
structure Effect (i : Instr) (s t : State) : Prop where
  frame  : s.mem.wf = true → Frame (writesV i) (writesParts i) (stores i s) s t
  pc     : t.pc = pcAfter i s
  memory : s.mem.wf = true → t.mem.wf = true
  stack  : ∀ k : Fin 16, t.stack[k] = s.stack[k] ∨ t.stack[k] = s.pc

/-- An instruction that leaves memory and the call stack alone. -/
theorem Effect.of_frame {i : Instr} {s t : State} (hf : Frame (writesV i) (writesParts i) (stores i s) s t)
    (hpc : t.pc = pcAfter i s) (hm : t.mem = s.mem) (hs : t.stack = s.stack) : Effect i s t where
  frame  := fun _ => hf
  pc     := hpc
  memory := fun h => hm ▸ h
  stack  := fun _ => .inl (by rw [hs])

theorem Effect.setPc {i : Instr} {s : State} {w : Word} (h : w = pcAfter i s) : Effect i s (s.setPc w) :=
  .of_frame (frame_setPc (pc_mem_writesParts i) _ _ s w) h rfl rfl

/-- Such an instruction that goes on to the next one. -/
theorem Effect.advance {i : Instr} {s t : State} (hf : Frame (writesV i) (writesParts i) (stores i s) s t)
    (hpc : t.pc + 2 = pcAfter i s) (hm : t.mem = s.mem) (hs : t.stack = s.stack) : Effect i s t.advance :=
  .of_frame (hf.trans (frame_advance (pc_mem_writesParts i) _ _ t)) hpc hm hs

theorem Effect.setV {i : Instr} {x : Reg} (s : State) (b : Byte) (hx : x ∈ writesV i) (hpc : s.pc + 2 = pcAfter i s) :
    Effect i s (s.setV x b).advance :=
  .advance (frame_setV hx _ _ s b) hpc rfl rfl

/-- A flag and then a register written, as 8XY4 to 8XYE do. -/
theorem Effect.setVF_setV {i : Instr} {x : Reg} (s : State) (f b : Byte) (hi : writesV i = [vF, x])
    (hpc : s.pc + 2 = pcAfter i s) : Effect i s ((s.setVF f).setV x b).advance :=
  have hf : vF ∈ writesV i := by simp [hi]
  have hx : x ∈ writesV i := by simp [hi]
  .advance ((frame_setVF hf _ _ s f).trans (frame_setV hx _ _ _ b)) hpc rfl rfl

theorem Effect.setI {i : Instr} (s : State) (w : Word) (hi : Part.i ∈ writesParts i) (hpc : s.pc + 2 = pcAfter i s) :
    Effect i s (s.setI w).advance :=
  .advance (frame_setI hi _ _ s w) hpc rfl rfl

theorem Effect.store {i : Instr} {s : State} {bs : List Byte} (hb : ea s 0 + bs.length ≤ 0x1000)
    (hi : stores i s = bytesAt (ea s 0) bs.length) (hpc : s.pc + 2 = pcAfter i s) :
    Effect i s (s.setMem (s.mem.writeAll (ea s 0) bs)).advance where
  frame  := fun hw => hi ▸ (frame_setMem hw hb _ _).trans (frame_advance (pc_mem_writesParts i) _ _ _)
  pc     := hpc
  memory := fun hw => Memory.wf_writeAll hw hb
  stack  := fun _ => .inl rfl

theorem Effect.cls (s : State) : Effect .cls s (s.present clearFb).advance :=
  .advance (frame_present (by simp [writesParts]) (by simp [writesParts]) _ _ s _) rfl rfl rfl

theorem Effect.rnd (x : Reg) (nn : Byte) (s : State) :
    Effect (.rnd x nn) s (s.setV x (Config.rand s.draws &&& nn)).countDraw.advance :=
  .advance ((frame_setV (.head _) _ _ s _).trans (frame_countDraw (by simp [writesParts]) _ _ _)) rfl rfl rfl

theorem Effect.drawSprite (x y : Reg) (n : BitVec 4) (bs : List Byte) (s : State) :
    Effect (.drw x y n) s (drawSprite x y bs s) :=
  .advance ((frame_present (by simp [writesParts]) (by simp [writesParts]) _ _ s _).trans
    (frame_setVF (.head _) _ _ _ _)) rfl rfl rfl

theorem stack_getD (s : State) {k : Nat} (h : k < 16) : s.stack.getD k 0 = s.stack[k] := by
  simp [Vector.getD, h]

/-- 00EE: the stack is only read. -/
theorem Effect.ret {s : State} (_h : s.sp.val ≠ 0) :
    Effect .ret s (({ s with sp := ⟨s.sp.val - 1, by omega⟩ } : State).setPc
      (s.stack[s.sp.val - 1]'(by omega) + 2)) := by
  refine .of_frame ((frame_stack _ _ s s.stack _ (.inl rfl) (by simp [writesParts])).trans
    (frame_setPc (.head _) _ _ _ _)) ?_ rfl rfl
  simp only [setPc_pc, pcAfter, stack_getD s (by omega : s.sp.val - 1 < 16)]

/-- 2NNN: the entry at sp takes the address of the instruction. -/
theorem Effect.call (nnn : Addr12) {s : State} (h : s.sp.val < 16) :
    Effect (.call nnn) s (({ s with stack := s.stack.set s.sp.val s.pc, sp := ⟨s.sp.val + 1, by omega⟩ } :
      State).setPc (addrOperand nnn)) where
  frame  := fun _ => (frame_stack _ _ s _ _ (.inr (by simp [writesParts])) (by simp [writesParts])).trans
    (frame_setPc (.head _) _ _ _ _)
  pc     := rfl
  memory := id
  stack  := fun k => by
    by_cases hk : s.sp.val = k.val <;> simp [hk]

/-! ### The causes of fatal conditions -/

/-- What must hold of `s` for an instruction to raise `c` there (60 R210): the first address outside memory is 0x1000
since EA(0) is inside. An instruction does not raise PcMisaligned. -/
def Raised.CausedAt (c : Raised) (s : State) : Prop :=
  match c with
  | .stackOverflow      => s.sp = 16
  | .stackUnderflow     => s.sp = 0
  | .memoryOutOfRange a => a = 0x1000
  | .pcMisaligned       => False
  | .keyOutOfRange k    => ∃ x, k = s.getV x ∧ 0xF < (s.getV x).toNat

/-- Everything an instruction can do: its effect, or the one condition it can raise (60 R211), with its cause. -/
def Ends (i : Instr) (s t : State) : Prop :=
  Effect i s t ∨
    ∃ c : Raised, c.CausedAt s ∧ mayRaise i = some c.condition ∧ t = takeFatal c (some (encode i)) s

theorem Ends.of_next {i : Instr} {s t u : State} (he : exec i s = .next u) (hu : Effect i s u)
    (h : exec i s = .next t) : Ends i s t := by
  cases he.symm.trans h
  exact .inl hu

theorem Ends.of_raised {i : Instr} {s t : State} {c : Raised} (he : exec i s = raised i c s) (hc : c.CausedAt s)
    (hi : mayRaise i = some c.condition) (h : exec i s = .next t) : Ends i s t := by
  cases he.symm.trans h
  exact .inr ⟨c, hc, hi, rfl⟩

theorem exec_cases {i : Instr} {s t : State} (h : exec i s = .next t) : Ends i s t := by
  cases i with
  | cls => exact .of_next rfl (.cls s) h
  | ret =>
    rcases sp_eq_zero_or s with h0 | h0
    · exact .of_raised (exec_ret_empty h0) h0 rfl h
    · exact .of_next (exec_ret_nonempty h0) (.ret h0) h
  | jp nnn => exact .of_next rfl (.setPc rfl) h
  | call nnn =>
    rcases sp_eq_full_or s with hf | hr
    · exact .of_raised (exec_call_full nnn hf) hf rfl h
    · exact .of_next (exec_call_room nnn hr) (.call nnn hr) h
  | seByte x nn => exact .of_next rfl (.setPc (by simp [pcAfter, pcSkip])) h
  | sneByte x nn => exact .of_next rfl (.setPc (by simp [pcAfter, pcSkip])) h
  | seReg x y => exact .of_next rfl (.setPc (by simp [pcAfter, pcSkip])) h
  | sneReg x y => exact .of_next rfl (.setPc (by simp [pcAfter, pcSkip])) h
  | ldByte x nn => exact .of_next rfl (.setV s _ (.head _) rfl) h
  | addByte x nn => exact .of_next rfl (.setV s _ (.head _) rfl) h
  | ldReg x y => exact .of_next rfl (.setV s _ (.head _) rfl) h
  | orReg x y => exact .of_next rfl (.setV s _ (.head _) rfl) h
  | andReg x y => exact .of_next rfl (.setV s _ (.head _) rfl) h
  | xorReg x y => exact .of_next rfl (.setV s _ (.head _) rfl) h
  | addReg x y => exact .of_next rfl (.setVF_setV s _ _ rfl rfl) h
  | subReg x y => exact .of_next rfl (.setVF_setV s _ _ rfl rfl) h
  | shr x y => exact .of_next rfl (.setVF_setV s _ _ rfl rfl) h
  | subnReg x y => exact .of_next rfl (.setVF_setV s _ _ rfl rfl) h
  | shl x y => exact .of_next rfl (.setVF_setV s _ _ rfl rfl) h
  | ldI nnn => exact .of_next rfl (.setI s _ (by simp [writesParts]) rfl) h
  | jpV0 nnn => exact .of_next rfl (.setPc rfl) h
  | rnd x nn => exact .of_next rfl (.rnd x nn s) h
  | drw x y n =>
    rcases Nat.lt_or_ge 0x1000 (ea s 0 + n.toNat) with hn | hn
    · exact .of_raised (exec_drw_outside x y hn) rfl rfl h
    · exact .of_next (exec_drw_inside x y hn) (.drawSprite x y n _ s) h
  | skp x =>
    rcases Nat.lt_or_ge 0xF (s.getV x).toNat with hk | hk
    · exact .of_raised (exec_skp_noKey rfl hk) ⟨x, rfl, hk⟩ rfl h
    · exact .of_next (exec_skp_key rfl hk) (.setPc (by simp [pcAfter, pcSkip])) h
  | sknp x =>
    rcases Nat.lt_or_ge 0xF (s.getV x).toNat with hk | hk
    · exact .of_raised (exec_sknp_noKey rfl hk) ⟨x, rfl, hk⟩ rfl h
    · exact .of_next (exec_sknp_key rfl hk) (.setPc (by simp [pcAfter, pcSkip])) h
  | ldVxDT x => exact .of_next rfl (.setV s _ (.head _) rfl) h
  | ldVxK x =>
    cases hk : lowestKey s.key with
    | none =>
      have h0 := lowestKey_none.mp hk
      exact .of_next (exec_ldVxK_waiting x h0) (.of_frame (.refl _ _ _ s) (if_pos h0).symm rfl rfl) h
    | some k =>
      have h0 : s.key ≠ 0 := fun e => by simp [lowestKey_none.mpr e] at hk
      exact .of_next (exec_ldVxK_pressed x hk) (.setV s _ (.head _) (if_neg h0).symm) h
  | ldDTVx x =>
    exact .of_next rfl (.advance (frame_setDelay (by simp [writesParts]) _ _ s (s.getV x)) rfl rfl rfl) h
  | ldSTVx x =>
    exact .of_next rfl (.advance (frame_setSound (by simp [writesParts]) _ _ s (s.getV x)) rfl rfl rfl) h
  | addIVx x => exact .of_next rfl (.setI s _ (by simp [writesParts]) rfl) h
  | ldFVx x => exact .of_next rfl (.setI s _ (by simp [writesParts]) rfl) h
  | ldBVx x =>
    rcases Nat.lt_or_ge 0x1000 (ea s 0 + 3) with hn | hn
    · exact .of_raised (exec_ldBVx_outside x hn) rfl rfl h
    · exact .of_next (exec_ldBVx_inside x hn) (.store hn rfl rfl) h
  | stRegs x =>
    rcases Nat.lt_or_ge 0x1000 (ea s 0 + (x.val + 1)) with hn | hn
    · exact .of_raised (exec_stRegs_outside hn) rfl rfl h
    · have hl := regsUpTo_length s x
      exact .of_next (exec_stRegs_inside hn) (.store (hl ▸ hn) (by rw [hl]; rfl) rfl) h
  | ldRegs x =>
    rcases Nat.lt_or_ge 0x1000 (ea s 0 + (x.val + 1)) with hn | hn
    · exact .of_raised (exec_ldRegs_outside hn) rfl rfl h
    · have hv := frame_setVsFrom (bytesAtI_length (s := s) (x.val + 1)) (writesParts (.ldRegs x)) noBytes s
      have he := setVsFrom_eq s 0 (bytesAtI s (x.val + 1))
      exact .of_next (exec_ldRegs_inside hn) (.advance hv (by rw [he]; rfl) (by rw [he]) (by rw [he])) h

end Sys2Proof.Machine
end

section
/-! PROOFS. The statements about all instructions that `exec_cases` answers, and the invariant. -/

namespace Sys2Proof.Machine

theorem Effect.halted_eq {i : Instr} {s t : State} (he : Effect i s t) (hw : s.mem.wf = true) : t.halted = s.halted :=
  (he.frame hw).parts .halted (halted_notMem_writesParts i)

theorem Effect.fault_eq {i : Instr} {s t : State} (he : Effect i s t) (hw : s.mem.wf = true) : t.fault = s.fault :=
  (he.frame hw).parts .fault (fault_notMem_writesParts i)

/-! ### The recorded opcode -/

theorem encode_of_decode0 {w : Word} {i : Instr} (h : decode0 w = .ok i) : encode i = w := by
  unfold decode0 at h
  split at h
  · next hw => cases h; exact hw.symm
  · split at h
    · next hw => cases h; exact hw.symm
    · cases h

theorem encode_of_decode8 {w : Word} {i : Instr} (hop : fieldOp w = 0x8#4) (h : decode8 w = .ok i) : encode i = w := by
  have hw := encodeXYN_fields w
  unfold decode8 at h
  rw [hop] at hw
  split at h <;> cases h <;> next hn => rw [hn] at hw; exact hw

theorem encode_of_decodeE {w : Word} {i : Instr} (hop : fieldOp w = 0xE#4) (h : decodeE w = .ok i) : encode i = w := by
  have hw := encodeXB_fields w
  unfold decodeE at h
  rw [hop] at hw
  split at h <;> cases h <;> next hn => rw [hn] at hw; exact hw

theorem encode_of_decodeF {w : Word} {i : Instr} (hop : fieldOp w = 0xF#4) (h : decodeF w = .ok i) : encode i = w := by
  have hw := encodeXB_fields w
  unfold decodeF at h
  rw [hop] at hw
  split at h <;> cases h <;> next hn => rw [hn] at hw; exact hw

theorem encode_of_decodeXY0 {w : Word} {i : Instr} {op : BitVec 4} {mk : Reg → Reg → Instr} (hop : fieldOp w = op)
    (hmk : ∀ x y, encode (mk x y) = encodeXYN op x y 0#4) (h : decodeXY0 mk w = .ok i) : encode i = w := by
  have hw := encodeXYN_fields w
  unfold decodeXY0 at h
  split at h
  · next hn => cases h; rw [hmk, ← hop, ← hn]; exact hw
  · cases h

/-- A word that decodes is the word of its instruction. -/
theorem encode_of_decodeWord {w : Word} {i : Instr} (h : decodeWord w = .ok i) : encode i = w := by
  have hA := encodeA_fields w
  have hXB := encodeXB_fields w
  have hXYN := encodeXYN_fields w
  unfold decodeWord at h
  split at h
  · exact encode_of_decode0 h
  case h_6 hop => exact encode_of_decodeXY0 hop (fun _ _ => rfl) h
  case h_9 hop => exact encode_of_decode8 hop h
  case h_10 hop => exact encode_of_decodeXY0 hop (fun _ _ => rfl) h
  case h_15 hop => exact encode_of_decodeE hop h
  case h_16 =>
    have hop : fieldOp w = 0xF#4 := by
      simp only [imp_false] at *
      bv_omega
    exact encode_of_decodeF hop h
  all_goals
    next hop => cases h; rw [hop] at hA hXB hXYN; assumption

/-! ### The invariant -/

theorem evenWord_iff (w : Word) : EvenWord w ↔ w.toNat % 2 = 0 := by
  unfold EvenWord
  rw [← BitVec.getLsbD_eq_getElem (by decide), BitVec.getLsbD, Nat.testBit_zero]
  simp

/-- The fetch's conditions and their causes (30 R82): the address after 0xFFE that is even is 0x1000. -/
theorem fetch_error {s : State} {c : Raised} (h : fetch s = .error c) :
    (c = .pcMisaligned ∧ ¬ EvenWord s.pc) ∨
      (c = .memoryOutOfRange s.pc.toNat ∧ EvenWord s.pc ∧ 0x1000 ≤ s.pc.toNat) := by
  by_cases he : EvenWord s.pc
  · have hev := (evenWord_iff s.pc).mp he
    rcases Nat.lt_or_ge 0xFFE s.pc.toNat with hp | hp
    · rw [fetch_outside he hp] at h
      cases h
      exact .inr ⟨rfl, he, by omega⟩
    · rw [fetch_inside he hp] at h
      cases h
  · rw [fetch_odd (by simpa [EvenWord] using he)] at h
    cases h
    exact .inl ⟨rfl, he⟩

/-- The record of a fetch that fails is explained by the state it failed in. -/
theorem explained_of_fetch_error {s : State} {c : Raised} (h : fetch s = .error c) :
    (faultRecord c none s).Explained s := by
  obtain ⟨rfl, hodd⟩ | ⟨rfl, hev, hp⟩ := fetch_error h
  · exact ⟨rfl, hodd, rfl, rfl⟩
  · exact ⟨rfl, .inl ⟨hev, hp, rfl, rfl⟩⟩

/-- The record of a condition whose cause holds is explained, when the opcode recorded is the word fetched. -/
theorem explained_of_causedAt {s : State} {c : Raised} {w : Word} (hc : c.CausedAt s) (hw : fetch s = .ok w) :
    (faultRecord c (some w) s).Explained s := by
  refine ⟨rfl, ?_⟩
  cases c with
  | stackOverflow => exact ⟨hc, ⟨w, hw, rfl⟩, rfl⟩
  | stackUnderflow => exact ⟨hc, ⟨w, hw, rfl⟩, rfl⟩
  | memoryOutOfRange a => exact .inr ⟨w, hw, rfl, congrArg FaultInfo.address hc⟩
  | pcMisaligned => exact hc.elim
  | keyOutOfRange k =>
    obtain ⟨x, rfl, hx⟩ := hc
    exact ⟨w, x, hw, rfl, rfl, hx⟩

theorem State.Inv.fault_eq_none {s : State} (hs : s.Inv) (hr : s.halted = false) : s.fault = none := by
  simpa [hr] using hs.halt

/-- Taking a fatal condition keeps the invariant when the record is explained by the state before. -/
theorem takeFatal_inv {s : State} (hs : s.Inv) {c : Raised} {op : Option Word}
    (he : (faultRecord c op s).Explained s) : (takeFatal c op s).Inv where
  memory  := hs.memory
  stack   := hs.stack
  pcBound := hs.pcBound
  halt    := rfl
  record  := fun r hr => by cases hr; exact he

/-- Where an instruction goes from inside memory (10 R25): the farthest is 0xFFF + 0xFF, by BNNN. -/
theorem pcAfter_le {s : State} (hs : s.Inv) (hp : s.pc.toNat ≤ 0xFFE) (i : Instr) :
    (pcAfter i s).toNat ≤ 0x10FE := by
  have hskip (c : Prop) [Decidable c] : (pcSkip s c).toNat ≤ 0x10FE := by
    unfold pcSkip; split <;> bv_omega
  have hnext : (s.pc + 2).toNat ≤ 0x10FE := by bv_omega
  cases i with
  | seByte x nn => exact hskip _
  | sneByte x nn => exact hskip _
  | seReg x y => exact hskip _
  | sneReg x y => exact hskip _
  | skp x => exact hskip _
  | sknp x => exact hskip _
  | jp nnn => simp only [pcAfter]; bv_omega
  | call nnn => simp only [pcAfter]; bv_omega
  | jpV0 nnn => simp only [pcAfter]; bv_omega
  | ret =>
    have hlt : s.sp.val - 1 < 16 := by omega
    obtain ⟨-, hk⟩ := hs.stack ⟨s.sp.val - 1, hlt⟩
    rw [Fin.getElem_fin] at hk
    simp only [pcAfter, stack_getD s hlt]
    bv_omega
  | ldVxK x => simp only [pcAfter]; split <;> omega
  | _ => exact hnext

/-- An instruction's effect keeps the invariant of a state that is not halted. -/
theorem effect_inv {i : Instr} {s t : State} (hs : s.Inv) (hr : s.halted = false) (he : EvenWord s.pc)
    (hp : s.pc.toNat ≤ 0xFFE) (hi : Effect i s t) : t.Inv := by
  have hfault : t.fault = none := (hi.fault_eq hs.memory).trans (hs.fault_eq_none hr)
  refine ⟨hi.memory hs.memory, fun k => ?_, hi.pc ▸ pcAfter_le hs hp i, ?_, fun r h => ?_⟩
  · rcases hi.stack k with h | h
    · exact h ▸ hs.stack k
    · exact h ▸ ⟨he, hp⟩
  · rw [hi.halted_eq hs.memory, hr, hfault]; rfl
  · rw [hfault] at h; cases h

theorem advance_inv {s : State} (hs : s.Inv) (hr : s.halted = false) (hp : s.pc.toNat ≤ 0xFFE) :
    s.advance.Inv where
  memory  := hs.memory
  stack   := hs.stack
  pcBound := by rw [advance_pc]; bv_omega
  halt    := hs.halt
  record  := fun r h => by rw [advance_fault, hs.fault_eq_none hr] at h; cases h

theorem exec_inv {i : Instr} {s t : State} (hs : s.Inv) (hr : s.halted = false)
    (hw : fetch s = .ok (encode i)) (h : exec i s = .next t) : t.Inv := by
  obtain hi | ⟨c, hc, -, rfl⟩ := exec_cases h
  · obtain ⟨he, hp⟩ := fetch_ok hw
    exact effect_inv hs hr he hp hi
  · exact takeFatal_inv hs (explained_of_causedAt hc hw)

theorem stepTxn_inv {s t : State} (hs : s.Inv) (h : stepTxn s = .next t) : t.Inv := by
  unfold stepTxn at h
  split at h
  · cases h; exact hs
  · next hr =>
    have hr : s.halted = false := by simpa using hr
    split at h
    · next c hf => cases h; exact takeFatal_inv hs (explained_of_fetch_error hf)
    · next w hf =>
      split at h
      · cases h; exact advance_inv hs hr (fetch_ok hf).2
      · next i hd => exact exec_inv hs hr (encode_of_decodeWord hd ▸ hf) h

theorem reset_inv : State.reset.Inv where
  memory  := rfl
  stack   := fun k => by simp [State.reset, EvenWord]
  pcBound := by decide
  halt    := rfl
  record  := fun r h => nomatch h

theorem resetTxn_inv (s : State) : (resetTxn s).Inv :=
  ⟨reset_inv.memory, reset_inv.stack, reset_inv.pcBound, reset_inv.halt, reset_inv.record⟩

theorem loadTxn_inv {s : State} (hs : s.Inv) (bs : List Byte) : (loadTxn bs s).Inv := by
  unfold loadTxn
  split
  · exact hs
  · next hlen =>
    have hfit : 0x200 + bs.length ≤ memSize := by simp [maxRom, memSize] at *; omega
    have hr := resetTxn_inv s
    exact ⟨Memory.wf_writeAll hr.memory hfit, hr.stack, hr.pcBound, hr.halt, fun r h => nomatch h⟩

theorem tickTxn_inv {s : State} (hs : s.Inv) : (tickTxn s).Inv := by
  unfold tickTxn
  split
  · exact hs
  · exact ⟨hs.memory, hs.stack, hs.pcBound, hs.halt, hs.record⟩

theorem transact_inv {τ : Txn} {s t : State} (hs : s.Inv) (h : transact τ s = .next t) : t.Inv := by
  cases τ with
  | reset => cases h; exact resetTxn_inv s
  | load bs => cases h; exact loadTxn_inv hs bs
  | step => exact stepTxn_inv hs h
  | tick => cases h; exact tickTxn_inv hs
  | setKeys k => cases h; exact ⟨hs.memory, hs.stack, hs.pcBound, hs.halt, hs.record⟩
  | drawAck => cases h; exact ⟨hs.memory, hs.stack, hs.pcBound, hs.halt, hs.record⟩

/-- Taking a transaction off the schedule changes nothing the invariant speaks of. -/
theorem nextTxn_inv {s : State} (hs : s.Inv) : (nextTxn s).2.Inv := by
  unfold nextTxn
  split
  · exact hs
  · exact ⟨hs.memory, hs.stack, hs.pcBound, hs.halt, hs.record⟩

end Sys2Proof.Machine

namespace Sys2Proof

open Machine

/-- Settles O56: a transaction of each kind keeps the invariant, and a step is the transaction scheduled next. -/
theorem invariantIsKept : Obligations.InvariantIsKept :=
  ⟨fun _ _ _ hs h => transact_inv hs h, fun _ _ hs h => transact_inv (nextTxn_inv hs) h⟩

/-- Settles O55: the reset memory lists nothing and no record is held. -/
theorem invariantAtReset : Obligations.InvariantAtReset := reset_inv

/-- Settles O45, by `exec_cases`: an effect has the frame of the tables and leaves `halted`, and a fatal condition
writes `halted` and `fault`. -/
theorem instructionsWriteOnlyTheirOwn : Obligations.InstructionsWriteOnlyTheirOwn := by
  intro i s t hw hs h
  obtain he | ⟨c, -, -, rfl⟩ := exec_cases h
  · have hrun : t.halted = false := (he.halted_eq hw).trans hs
    exact ⟨fun _ => he.frame hw, fun hh => by simp [hrun] at hh⟩
  · exact ⟨fun hh => by simp at hh, fun _ => frame_takeFatal c _ s⟩

/-- Settles O46, by `exec_cases`: a fatal condition halts, so what is left is the effect. -/
theorem pcFollowsTheTable : Obligations.PcFollowsTheTable := by
  intro i s t _ h hrun
  obtain he | ⟨c, -, -, rfl⟩ := exec_cases h
  · exact he.pc
  · simp at hrun

end Sys2Proof
end

section
/-! PROOFS. What an instruction does not read cannot affect what it does (10 R22, R30, R31, R34). -/

namespace Sys2Proof.Machine

/-! ### A register that is not read -/

/-- `u` is what `t` is when V[r] was `b` before instead of what `s` has there: either V[r] was overwritten, and they are
the same, or it was left alone. -/
def SameButV (r : Reg) (b : Byte) (s t u : State) : Prop :=
  u = t ∨ (u = t.setV r b ∧ t.getV r = s.getV r)

section
variable {r : Reg} {b : Byte} {s t u : State}

theorem SameButV.start : SameButV r b s s (s.setV r b) := .inr ⟨rfl, rfl⟩

theorem setV_setV_same (s : State) (r : Reg) (b c : Byte) : (s.setV r b).setV r c = s.setV r c := by
  simp [State.setV]

theorem setV_setV_comm {x r : Reg} (h : x ≠ r) (s : State) (b c : Byte) :
    (s.setV r b).setV x c = (s.setV x c).setV r b := by
  have h' : r.val ≠ x.val := fun e => h (Fin.ext e.symm)
  simp only [State.setV, Vector.set_comm _ _ h']

/-- Writing the same byte to a register of both. -/
theorem SameButV.setV (h : SameButV r b s t u) (x : Reg) (c : Byte) : SameButV r b s (t.setV x c) (u.setV x c) := by
  obtain rfl | ⟨rfl, hr⟩ := h
  · exact .inl rfl
  · by_cases hx : x = r
    · exact .inl (by rw [hx, setV_setV_same])
    · exact .inr ⟨setV_setV_comm hx t b c, (getV_setV_ne t (Ne.symm hx) c).trans hr⟩

theorem SameButV.setVsFrom (h : SameButV r b s t u) (k : Nat) (bs : List Byte) :
    SameButV r b s (t.setVsFrom k bs) (u.setVsFrom k bs) := by
  induction bs generalizing t u k with
  | nil => exact h
  | cons c bs ih =>
    unfold State.setVsFrom
    split
    · exact ih (h.setV _ c) (k + 1)
    · exact h

/-- An update of both that neither reads nor writes V. -/
theorem SameButV.map (h : SameButV r b s t u) {f : State → State} (hc : ∀ t, f (t.setV r b) = (f t).setV r b)
    (hv : ∀ t, (f t).getV r = t.getV r) : SameButV r b s (f t) (f u) := by
  obtain rfl | ⟨rfl, hr⟩ := h
  · exact .inl rfl
  · exact .inr ⟨hc t, (hv t).trans hr⟩

theorem SameButV.advance (h : SameButV r b s t u) : SameButV r b s t.advance u.advance :=
  h.map (fun _ => rfl) fun _ => rfl

theorem SameButV.drawSprite {x y : Reg} (hx : (s.setV r b).getV x = s.getV x) (hy : (s.setV r b).getV y = s.getV y)
    (bs : List Byte) : SameButV r b s (drawSprite x y bs s) (drawSprite x y bs (s.setV r b)) := by
  simp only [Machine.drawSprite, hx, hy]
  have hp (g : Framebuffer) : SameButV r b s (s.present g) ((s.setV r b).present g) := .inr ⟨rfl, rfl⟩
  exact ((hp _).setV vF _).advance

theorem SameButV.frame (h : SameButV r b s t u) :
    Frame [r] [] noBytes t u ∧ (u.getV r = t.getV r ∨ (u.getV r = b ∧ t.getV r = s.getV r)) := by
  obtain rfl | ⟨rfl, hr⟩ := h
  · exact ⟨.refl _ _ _ _, .inl rfl⟩
  · exact ⟨frame_setV (.head _) _ _ t b, .inr ⟨getV_setV_self t r b, hr⟩⟩

end

/-- V[0] to V[x] are the same when the register changed is none of them. -/
theorem regsUpTo_setV {s : State} {x r : Reg} (h : r ∉ regsTo x) (b : Byte) :
    (s.setV r b).regsUpTo x = s.regsUpTo x := by
  have hr : x.val < r.val := not_le.mp (mt mem_regsTo.mpr h)
  simp [State.regsUpTo, Vector.toList_set, List.take_set_of_le, hr]

/-- With V[r] changed to `b` beforehand, `i` answers what it answered, but for that register. -/
def AnswersSame (i : Instr) (s : State) (r : Reg) (b : Byte) (t : State) : Prop :=
  ∃ u, exec i (s.setV r b) = .next u ∧ SameButV r b s t u

theorem AnswersSame.of_next {i : Instr} {s t t' u : State} {r : Reg} {b : Byte} (he : exec i s = .next t')
    (he' : exec i (s.setV r b) = .next u) (hu : SameButV r b s t' u) (h : exec i s = .next t) :
    AnswersSame i s r b t := by
  cases he.symm.trans h
  exact ⟨u, he', hu⟩

theorem AnswersSame.of_raised {i : Instr} {s t : State} {r : Reg} {b : Byte} {c : Raised}
    (he : exec i s = raised i c s) (he' : exec i (s.setV r b) = raised i c (s.setV r b)) (h : exec i s = .next t) :
    AnswersSame i s r b t :=
  .of_next he he' (.inr ⟨rfl, rfl⟩) h

/-- Every value an arm of `exec` computes from V comes from the registers of `readsV`. -/
theorem exec_setV_unread {i : Instr} {s t : State} {r : Reg} (b : Byte) (hr : r ∉ readsV i) (h : exec i s = .next t) :
    AnswersSame i s r b t := by
  have hget {x : Reg} (hx : x ∈ readsV i) : (s.setV r b).getV x = s.getV x :=
    getV_setV_ne s (fun e : x = r => hr (e ▸ hx)) b
  have hgetF {x : Reg} (hx : (s.setV r b).getV x = s.getV x) {f : Byte} :
      ((s.setV r b).setVF f).getV x = (s.setVF f).getV x := by
    rw [getV_setVF, getV_setVF, hx]
  cases i with
  | cls => exact .of_next rfl rfl (.inr ⟨rfl, rfl⟩) h
  | ret =>
    rcases sp_eq_zero_or s with h0 | h0
    · exact .of_raised (exec_ret_empty h0) (exec_ret_empty h0) h
    · exact .of_next (exec_ret_nonempty h0) (exec_ret_nonempty (s := s.setV r b) h0) (.inr ⟨rfl, rfl⟩) h
  | jp nnn => exact .of_next rfl rfl (.inr ⟨rfl, rfl⟩) h
  | call nnn =>
    rcases sp_eq_full_or s with hf | hs
    · exact .of_raised (exec_call_full nnn hf) (exec_call_full nnn hf) h
    · exact .of_next (exec_call_room nnn hs) (exec_call_room (s := s.setV r b) nnn hs) (.inr ⟨rfl, rfl⟩) h
  | seByte x nn => exact .of_next rfl rfl (.inr ⟨by rw [hget (.head _)]; rfl, rfl⟩) h
  | sneByte x nn => exact .of_next rfl rfl (.inr ⟨by rw [hget (.head _)]; rfl, rfl⟩) h
  | seReg x y => exact .of_next rfl rfl (.inr ⟨by rw [hget (.head _), hget (.tail _ (.head _))]; rfl, rfl⟩) h
  | sneReg x y => exact .of_next rfl rfl (.inr ⟨by rw [hget (.head _), hget (.tail _ (.head _))]; rfl, rfl⟩) h
  | ldByte x nn => exact .of_next rfl rfl (SameButV.start.setV x nn).advance h
  | addByte x nn => exact .of_next rfl rfl (by rw [hget (.head _)]; exact (SameButV.start.setV x _).advance) h
  | ldReg x y => exact .of_next rfl rfl (by rw [hget (.head _)]; exact (SameButV.start.setV x _).advance) h
  | orReg x y =>
    exact .of_next rfl rfl
      (by rw [hget (.head _), hget (.tail _ (.head _))]; exact (SameButV.start.setV x _).advance) h
  | andReg x y =>
    exact .of_next rfl rfl
      (by rw [hget (.head _), hget (.tail _ (.head _))]; exact (SameButV.start.setV x _).advance) h
  | xorReg x y =>
    exact .of_next rfl rfl
      (by rw [hget (.head _), hget (.tail _ (.head _))]; exact (SameButV.start.setV x _).advance) h
  | addReg x y =>
    exact .of_next rfl rfl
      (by rw [hget (.head _), hget (.tail _ (.head _))]; exact ((SameButV.start.setV vF _).setV x _).advance) h
  | subReg x y =>
    have hx := hget (x := x) (.head _)
    have hy := hget (x := y) (.tail _ (.head _))
    exact .of_next rfl rfl
      (by rw [hgetF hx, hgetF hy, hx, hy]; exact ((SameButV.start.setV vF _).setV x _).advance) h
  | subnReg x y =>
    have hx := hget (x := x) (.head _)
    have hy := hget (x := y) (.tail _ (.head _))
    exact .of_next rfl rfl
      (by rw [hgetF hx, hgetF hy, hx, hy]; exact ((SameButV.start.setV vF _).setV x _).advance) h
  | shr x y =>
    have hx := hget (x := x) (.head _)
    exact .of_next rfl rfl (by rw [hgetF hx, hx]; exact ((SameButV.start.setV vF _).setV x _).advance) h
  | shl x y =>
    have hx := hget (x := x) (.head _)
    exact .of_next rfl rfl (by rw [hgetF hx, hx]; exact ((SameButV.start.setV vF _).setV x _).advance) h
  | ldI nnn => exact .of_next rfl rfl (.inr ⟨rfl, rfl⟩) h
  | jpV0 nnn => exact .of_next rfl rfl (.inr ⟨by rw [State.getV16, hget (.head _)]; rfl, rfl⟩) h
  | rnd x nn => exact .of_next rfl rfl ((SameButV.start.setV x _).advance.map (fun _ => rfl) fun _ => rfl) h
  | drw x y n =>
    rcases Nat.lt_or_ge 0x1000 (ea s 0 + n.toNat) with hn | hn
    · exact .of_raised (exec_drw_outside x y hn) (exec_drw_outside x y hn) h
    · exact .of_next (exec_drw_inside x y hn) (exec_drw_inside (s := s.setV r b) x y hn)
        (.drawSprite (hget (.head _)) (hget (.tail _ (.head _))) _) h
  | skp x =>
    have hx := hget (x := x) (.head _)
    rcases Nat.lt_or_ge 0xF (s.getV x).toNat with hk | hk
    · exact .of_raised (exec_skp_noKey rfl hk) (exec_skp_noKey hx hk) h
    · exact .of_next (exec_skp_key rfl hk) (exec_skp_key hx hk) (.inr ⟨rfl, rfl⟩) h
  | sknp x =>
    have hx := hget (x := x) (.head _)
    rcases Nat.lt_or_ge 0xF (s.getV x).toNat with hk | hk
    · exact .of_raised (exec_sknp_noKey rfl hk) (exec_sknp_noKey hx hk) h
    · exact .of_next (exec_sknp_key rfl hk) (exec_sknp_key hx hk) (.inr ⟨rfl, rfl⟩) h
  | ldVxDT x => exact .of_next rfl rfl (SameButV.start.setV x _).advance h
  | ldVxK x =>
    cases hk : lowestKey s.key with
    | none =>
      have h0 := lowestKey_none.mp hk
      exact .of_next (exec_ldVxK_waiting x h0) (exec_ldVxK_waiting x h0) .start h
    | some k =>
      exact .of_next (exec_ldVxK_pressed x hk) (exec_ldVxK_pressed (s := s.setV r b) x hk)
        (SameButV.start.setV x _).advance h
  | ldDTVx x => exact .of_next rfl rfl (.inr ⟨by rw [hget (.head _)]; rfl, rfl⟩) h
  | ldSTVx x => exact .of_next rfl rfl (.inr ⟨by rw [hget (.head _)]; rfl, rfl⟩) h
  | addIVx x => exact .of_next rfl rfl (.inr ⟨by rw [State.getV16, hget (.head _)]; rfl, rfl⟩) h
  | ldFVx x => exact .of_next rfl rfl (.inr ⟨by rw [hget (.head _)]; rfl, rfl⟩) h
  | ldBVx x =>
    rcases Nat.lt_or_ge 0x1000 (ea s 0 + 3) with hn | hn
    · exact .of_raised (exec_ldBVx_outside x hn) (exec_ldBVx_outside x hn) h
    · exact .of_next (exec_ldBVx_inside x hn) (exec_ldBVx_inside (s := s.setV r b) x hn)
        (.inr ⟨by rw [hget (.head _)]; rfl, rfl⟩) h
  | stRegs x =>
    rcases Nat.lt_or_ge 0x1000 (ea s 0 + (x.val + 1)) with hn | hn
    · exact .of_raised (exec_stRegs_outside hn) (exec_stRegs_outside hn) h
    · exact .of_next (exec_stRegs_inside hn) (exec_stRegs_inside (s := s.setV r b) hn)
        (.inr ⟨by rw [regsUpTo_setV hr]; rfl, rfl⟩) h
  | ldRegs x =>
    rcases Nat.lt_or_ge 0x1000 (ea s 0 + (x.val + 1)) with hn | hn
    · exact .of_raised (exec_ldRegs_outside hn) (exec_ldRegs_outside hn) h
    · exact .of_next (exec_ldRegs_inside hn) (exec_ldRegs_inside (s := s.setV r b) hn)
        (SameButV.start.setVsFrom 0 _).advance h

/-! ### The keys and the timers -/

/-- The keys and the timers changed. -/
def State.mapIO (s : State) (fk : BitVec 16 → BitVec 16) (fd fs : Byte → Byte) : State :=
  { s with key := fk s.key, delay := fd s.delay, sound := fs s.sound }

section
variable {i : Instr} {s t t' u : State} {fk : BitVec 16 → BitVec 16} {fd fs : Byte → Byte}

theorem mapIO_of_next (he : exec i s = .next t') (he' : exec i (s.mapIO fk fd fs) = .next (t'.mapIO fk fd fs))
    (h : exec i s = .next t) : exec i (s.mapIO fk fd fs) = .next (t.mapIO fk fd fs) := by
  cases he.symm.trans h
  exact he'

theorem setVsFrom_mapIO (s : State) (k : Nat) (bs : List Byte) :
    (s.mapIO fk fd fs).setVsFrom k bs = (s.setVsFrom k bs).mapIO fk fd fs := by
  induction bs generalizing s k with
  | nil => rfl
  | cons b bs ih =>
    unfold State.setVsFrom
    split
    · next hk => exact ih (s.setV ⟨k, hk⟩ b) (k + 1)
    · rfl

/-- An instruction carries changed keys and timers through where it neither reads nor writes what changed. -/
theorem exec_mapIO (hk : fk = id ∨ ∀ x, i ≠ .skp x ∧ i ≠ .sknp x ∧ i ≠ .ldVxK x)
    (hd : fd = id ∨ ∀ x, i ≠ .ldVxDT x ∧ i ≠ .ldDTVx x) (hs : fs = id ∨ ∀ x, i ≠ .ldSTVx x)
    (h : exec i s = .next t) : exec i (s.mapIO fk fd fs) = .next (t.mapIO fk fd fs) := by
  cases i with
  | ret =>
    rcases sp_eq_zero_or s with h0 | h0
    · exact mapIO_of_next (exec_ret_empty h0) (exec_ret_empty h0) h
    · exact mapIO_of_next (exec_ret_nonempty h0) (exec_ret_nonempty (s := s.mapIO fk fd fs) h0) h
  | call nnn =>
    rcases sp_eq_full_or s with hf | hr
    · exact mapIO_of_next (exec_call_full nnn hf) (exec_call_full nnn hf) h
    · exact mapIO_of_next (exec_call_room nnn hr) (exec_call_room (s := s.mapIO fk fd fs) nnn hr) h
  | drw x y n =>
    rcases Nat.lt_or_ge 0x1000 (ea s 0 + n.toNat) with hn | hn
    · exact mapIO_of_next (exec_drw_outside x y hn) (exec_drw_outside x y hn) h
    · exact mapIO_of_next (exec_drw_inside x y hn) (exec_drw_inside (s := s.mapIO fk fd fs) x y hn) h
  | skp x =>
    obtain rfl := hk.resolve_right fun hx => (hx x).1 rfl
    rcases Nat.lt_or_ge 0xF (s.getV x).toNat with hv | hv
    · exact mapIO_of_next (exec_skp_noKey rfl hv) (exec_skp_noKey rfl hv) h
    · exact mapIO_of_next (exec_skp_key rfl hv) (exec_skp_key (s := s.mapIO id fd fs) rfl hv) h
  | sknp x =>
    obtain rfl := hk.resolve_right fun hx => (hx x).2.1 rfl
    rcases Nat.lt_or_ge 0xF (s.getV x).toNat with hv | hv
    · exact mapIO_of_next (exec_sknp_noKey rfl hv) (exec_sknp_noKey rfl hv) h
    · exact mapIO_of_next (exec_sknp_key rfl hv) (exec_sknp_key (s := s.mapIO id fd fs) rfl hv) h
  | ldVxK x =>
    obtain rfl := hk.resolve_right fun hx => (hx x).2.2 rfl
    cases hl : lowestKey s.key with
    | none =>
      have h0 := lowestKey_none.mp hl
      exact mapIO_of_next (exec_ldVxK_waiting x h0) (exec_ldVxK_waiting x h0) h
    | some k =>
      exact mapIO_of_next (exec_ldVxK_pressed x hl) (exec_ldVxK_pressed (s := s.mapIO id fd fs) x hl) h
  | ldVxDT x =>
    obtain rfl := hd.resolve_right fun hx => (hx x).1 rfl
    exact mapIO_of_next rfl rfl h
  | ldDTVx x =>
    obtain rfl := hd.resolve_right fun hx => (hx x).2 rfl
    exact mapIO_of_next rfl rfl h
  | ldSTVx x =>
    obtain rfl := hs.resolve_right fun hx => hx x rfl
    exact mapIO_of_next rfl rfl h
  | ldBVx x =>
    rcases Nat.lt_or_ge 0x1000 (ea s 0 + 3) with hn | hn
    · exact mapIO_of_next (exec_ldBVx_outside x hn) (exec_ldBVx_outside x hn) h
    · exact mapIO_of_next (exec_ldBVx_inside x hn) (exec_ldBVx_inside (s := s.mapIO fk fd fs) x hn) h
  | stRegs x =>
    rcases Nat.lt_or_ge 0x1000 (ea s 0 + (x.val + 1)) with hn | hn
    · exact mapIO_of_next (exec_stRegs_outside hn) (exec_stRegs_outside hn) h
    · exact mapIO_of_next (exec_stRegs_inside hn) (exec_stRegs_inside (s := s.mapIO fk fd fs) hn) h
  | ldRegs x =>
    rcases Nat.lt_or_ge 0x1000 (ea s 0 + (x.val + 1)) with hn | hn
    · exact mapIO_of_next (exec_ldRegs_outside hn) (exec_ldRegs_outside hn) h
    · refine mapIO_of_next (exec_ldRegs_inside hn) ((exec_ldRegs_inside (s := s.mapIO fk fd fs) hn).trans ?_) h
      rw [setVsFrom_mapIO]; rfl
  | _ => exact mapIO_of_next rfl rfl h

end

/-! ### A halted core -/

theorem stepTxn_halted {s : State} (h : s.halted = true) : stepTxn s = .next s := if_pos h

theorem tickTxn_halted {s : State} (h : s.halted = true) : tickTxn s = s := if_pos h

theorem loadTxn_tooLarge {bs : List Byte} (h : maxRom < bs.length) (s : State) : loadTxn bs s = s := if_pos h

end Sys2Proof.Machine

namespace Sys2Proof

open Machine

/-- Settles O47, by `exec_setV_unread`. -/
theorem unreadRegistersDoNotMatter : Obligations.UnreadRegistersDoNotMatter := by
  intro i s t r b hr h
  obtain ⟨u, hu, hsame⟩ := exec_setV_unread b hr h
  exact ⟨u, hu, hsame.frame⟩

/-- Settles O48, by `exec_mapIO`; FX15 and FX18 overwrite the timer that was changed. -/
theorem keysAndTimersAreReadOnlyByTheirInstructions : Obligations.KeysAndTimersAreReadOnlyByTheirInstructions := by
  intro i s t h
  refine ⟨fun k hi => exec_mapIO (fk := fun _ => k) (.inr hi) (.inl rfl) (.inl rfl) h, fun d hi => ?_, fun d => ?_⟩
  · by_cases hw : ∃ x, i = .ldDTVx x
    · obtain ⟨x, rfl⟩ := hw
      exact ⟨t, h, .refl _ _ _ t⟩
    · have hd (x : Reg) : i ≠ .ldVxDT x ∧ i ≠ .ldDTVx x := ⟨hi x, fun e => hw ⟨x, e⟩⟩
      exact ⟨_, exec_mapIO (fd := fun _ => d) (.inl rfl) (.inr hd) (.inl rfl) h, frame_setDelay (.head _) _ _ t d⟩
  · by_cases hw : ∃ x, i = .ldSTVx x
    · obtain ⟨x, rfl⟩ := hw
      exact ⟨t, h, .refl _ _ _ t⟩
    · exact ⟨_, exec_mapIO (fs := fun _ => d) (.inl rfl) (.inl rfl) (.inr fun x e => hw ⟨x, e⟩) h,
        frame_setSound (.head _) _ _ t d⟩

/-- Settles O44: `step`, `tick` and a `load` of too many bytes answer a halted state itself, and the host's other two
writes keep the halt bit. -/
theorem onlyResetAndLoadEndAHalt : Obligations.OnlyResetAndLoadEndAHalt := by
  intro τ s t hh h hrun
  cases τ with
  | reset => exact .inl rfl
  | load bs =>
    refine .inr ⟨bs, rfl, not_lt.mp fun hlen => ?_⟩
    cases h
    simp [loadTxn_tooLarge hlen, hh] at hrun
  | step =>
    cases (stepTxn_halted hh).symm.trans h
    simp [hh] at hrun
  | tick =>
    cases h
    simp [tickTxn_halted hh, hh] at hrun
  | setKeys k => cases h; simp [hh] at hrun
  | drawAck => cases h; simp [hh] at hrun

/-- Settles O50: the reset memory lists nothing, so it reads as FONTSET and 0. -/
theorem resetStateValues : Obligations.ResetStateValues := by
  refine ⟨rfl, rfl, rfl, getV_reset, fun k => ?_, rfl, rfl, pixelOf_clear, rfl, rfl, rfl, rfl, fun k => ?_,
    fun a ha => ?_⟩
  · simp [State.reset]
  · exact dif_pos k.isLt
  · exact dif_neg (by omega)

/-- Settles O52, by the frames of the two writes. -/
theorem keysAndDrawAcknowledge : Obligations.KeysAndDrawAcknowledge := fun s =>
  ⟨fun k => ⟨_, rfl, fun _ _ => rfl, frame_setKeysTxn k s⟩, _, rfl, rfl, frame_drawAckTxn s⟩

end Sys2Proof
end

section
/-! PROOFS. An instruction's word and its bytes decode to it (20 R65, 30 R83). -/

namespace Sys2Proof

/-- A word is made of its high byte and its low byte. -/
theorem wordOfBytes_extractLsb' (w : Word) : wordOfBytes (w.extractLsb' 8 8) (w.extractLsb' 0 8) = w := by
  apply BitVec.eq_of_toNat_eq
  rw [wordOfBytes_toNat]
  simp only [BitVec.extractLsb'_toNat]
  omega

/-- Decoding undoes encoding, per form: the top nibble leads back to the form's arm, and where a nibble or a byte
chooses further, it leads back to the form's row. -/
theorem decodeWord_encode (i : Instr) : decodeWord (encode i) = .ok i := by
  cases i with
  | cls | ret => rfl
  | jp | call | ldI | jpV0 => simp [decodeWord, encode]
  | seByte | sneByte | ldByte | addByte | rnd | drw => simp [decodeWord, encode]
  | seReg | sneReg => simp [decodeWord, encode, decodeXY0]
  | ldReg | orReg | andReg | xorReg | addReg | subReg | shr | subnReg | shl =>
    simp [decodeWord, encode, decode8]
  | skp | sknp => simp [decodeWord, encode, decodeE]
  | ldVxDT | ldVxK | ldDTVx | ldSTVx | addIVx | ldFVx | ldBVx | stRegs | ldRegs =>
    simp [decodeWord, encode, decodeF]

/-- Settles O5: the two bytes make the word again, and `decodeWord_encode` decodes it. -/
theorem decodeOfEncodedBytes : Obligations.DecodeOfEncodedBytes := by
  intro i rest
  calc decodeBytes (encodeBytes i ++ rest)
    _ = (decodeWord (wordOfBytes ((encode i).extractLsb' 8 8) ((encode i).extractLsb' 0 8))).map (·, rest) := rfl
    _ = .ok (i, rest) := by rw [wordOfBytes_extractLsb', decodeWord_encode]; rfl

end Sys2Proof
end

section
/-! PROOFS. The effective address, a byte written and read back, and what FX55 stores (20 R62–R64, R72). -/

namespace Sys2Proof.Machine

/-- The mask applies to I alone. -/
theorem ea_eq (s : State) (k : Nat) : ea s k = s.i.toNat % 4096 + k := by
  simp [ea, BitVec.extractLsb'_toNat]

/-- After FX55, EA(k) holds V[k] for each k up to x. -/
theorem read_ea_of_exec_stRegs {x : Reg} {s t : State} (hw : s.mem.wf = true) (hx : ea s x.val ≤ 0xFFF)
    (h : exec (.stRegs x) s = .next t) {k : Reg} (hk : k ≤ x) : t.mem.read (ea s k.val) = s.getV k := by
  have hk' : k.val ≤ x.val := hk
  rw [ea_add] at hx
  cases (exec_stRegs_inside (by omega)).symm.trans h
  have hlen := regsUpTo_length s x
  rw [advance_mem, setMem_mem, Memory.read_writeAll hw (by rw [hlen, memSize]; omega), hlen, ea_add s k.val,
    if_pos (by omega), Nat.add_sub_cancel_left, regsUpTo_getD s x hk' k.isLt]

end Sys2Proof.Machine

namespace Sys2Proof

open Machine

/-- Settles O32: a fetch reads the bytes at pc and pc + 1, which are EA(k) and EA(k + 1), where FX55 put V[k] and
V[k + 1]. -/
theorem storeIsSeenByFetch : Obligations.StoreIsSeenByFetch := by
  intro x s t u k hk hw hx h hkx hmem hpc heven
  have hread {j : Nat} (hj : j < 16) (hjx : j ≤ x.val) : u.mem.read (ea s j) = s.getV ⟨j, hj⟩ :=
    hmem ▸ read_ea_of_exec_stRegs hw hx h (k := ⟨j, hj⟩) hjx
  have hin : u.pc.toNat ≤ 0xFFE := by rw [ea_add] at hx hpc; omega
  rw [fetch_inside heven hin, hpc, show ea s k + 1 = ea s (k + 1) from rfl, hread _ (by omega), hread _ hkx]

/-- Settles O30, by the access primitives. -/
theorem effectiveAddress : Obligations.EffectiveAddress := fun s k b =>
  ⟨ea_eq s k, fun h => ⟨memRead_error h, memWrite_error h b⟩, fun h => ⟨memRead_ok h, memWrite_ok h b⟩⟩

/-- Settles O31, by the read after a write. -/
theorem memoryReadsLastWrite : Obligations.MemoryReadsLastWrite := fun _ a b hw ha =>
  ⟨Memory.wf_write hw (Nat.lt_succ_of_le ha) b, (Memory.read_write hw a b a).trans (if_pos rfl),
    fun q hq => (Memory.read_write hw a b q).trans (if_neg hq)⟩

end Sys2Proof
end

section
/-! PROOFS. The decoder against the opcode map: the two directions of the round trip, a word that matches a row decodes to
a form of that row, and which words are unrecognized (30 R84–R89). -/

namespace Sys2Proof

/-! ### A word that matches a row is the word of a form of that row -/

/-- Every word that matches the row is the word of a form of that row. -/
def OpRow.Covered (r : OpRow) : Prop := ∀ w, r.matches w = true → ∃ i : Instr, encode i = w ∧ i.row = r

section
variable {m p w : Word}

theorem OpRow.matches_mk : OpRow.matches ⟨m, p⟩ w = true ↔ w &&& m = p := beq_iff_eq

/-- A word has the pattern's bits wherever the mask has all of them. -/
theorem extractLsb'_of_masked {k n : Nat} (h : w &&& m = p) (hm : m.extractLsb' k n = BitVec.allOnes n) :
    w.extractLsb' k n = p.extractLsb' k n := by
  rw [← h, BitVec.extractLsb'_and, hm, BitVec.and_allOnes]

theorem fieldOp_of_masked (h : w &&& m = p) (hm : fieldOp m = BitVec.allOnes 4) : fieldOp w = fieldOp p :=
  extractLsb'_of_masked h hm

theorem fieldN_of_masked (h : w &&& m = p) (hm : fieldN m = BitVec.allOnes 4) : fieldN w = fieldN p :=
  extractLsb'_of_masked h hm

theorem fieldNN_of_masked (h : w &&& m = p) (hm : fieldNN m = BitVec.allOnes 8) : fieldNN w = fieldNN p :=
  extractLsb'_of_masked h hm

end

namespace OpRow.Covered

variable {p : Word}

/-- 00E0 and 00EE: the whole word is matched. -/
theorem word (i : Instr) (he : encode i = p := by rfl) (hr : i.row = ⟨0xFFFF#16, p⟩ := by rfl) :
    Covered ⟨0xFFFF#16, p⟩ := by
  intro w hw
  have hwp : w = p := (BitVec.and_allOnes (x := w)).symm.trans (OpRow.matches_mk.mp hw)
  exact ⟨i, he.trans hwp.symm, hr⟩

/-- _NNN: the top nibble is matched, and the rest of the word is the operand. -/
theorem addr (mk : Addr12 → Instr) (he : ∀ nnn, encode (mk nnn) = encodeA (fieldOp p) nnn := by intros; rfl)
    (hr : ∀ nnn, (mk nnn).row = ⟨0xF000#16, p⟩ := by intros; rfl) : Covered ⟨0xF000#16, p⟩ := by
  intro w hw
  have hop : fieldOp w = fieldOp p := fieldOp_of_masked (OpRow.matches_mk.mp hw) (by decide)
  exact ⟨mk (fieldNNN w), by rw [he, ← hop, encodeA_fields], hr _⟩

/-- _XNN: as `addr`, with two operands. -/
theorem byte (mk : Reg → Byte → Instr) (he : ∀ x nn, encode (mk x nn) = encodeXB (fieldOp p) x nn := by intros; rfl)
    (hr : ∀ x nn, (mk x nn).row = ⟨0xF000#16, p⟩ := by intros; rfl) : Covered ⟨0xF000#16, p⟩ := by
  intro w hw
  have hop : fieldOp w = fieldOp p := fieldOp_of_masked (OpRow.matches_mk.mp hw) (by decide)
  exact ⟨mk (fieldX w) (fieldNN w), by rw [he, ← hop, encodeXB_fields], hr _ _⟩

/-- _XYN: as `addr`, with three operands. -/
theorem count (mk : Reg → Reg → BitVec 4 → Instr)
    (he : ∀ x y n, encode (mk x y n) = encodeXYN (fieldOp p) x y n := by intros; rfl)
    (hr : ∀ x y n, (mk x y n).row = ⟨0xF000#16, p⟩ := by intros; rfl) : Covered ⟨0xF000#16, p⟩ := by
  intro w hw
  have hop : fieldOp w = fieldOp p := fieldOp_of_masked (OpRow.matches_mk.mp hw) (by decide)
  exact ⟨mk (fieldX w) (fieldY w) (fieldN w), by rw [he, ← hop, encodeXYN_fields], hr _ _ _⟩

/-- _XY0 to _XYE: the last nibble is matched too. -/
theorem regs (mk : Reg → Reg → Instr)
    (he : ∀ x y, encode (mk x y) = encodeXYN (fieldOp p) x y (fieldN p) := by intros; rfl)
    (hr : ∀ x y, (mk x y).row = ⟨0xF00F#16, p⟩ := by intros; rfl) : Covered ⟨0xF00F#16, p⟩ := by
  intro w hw
  have hop : fieldOp w = fieldOp p := fieldOp_of_masked (OpRow.matches_mk.mp hw) (by decide)
  have hn : fieldN w = fieldN p := fieldN_of_masked (OpRow.matches_mk.mp hw) (by decide)
  exact ⟨mk (fieldX w) (fieldY w), by rw [he, ← hop, ← hn, encodeXYN_fields], hr _ _⟩

/-- EX__ and FX__: the last byte is matched too. -/
theorem reg (mk : Reg → Instr) (he : ∀ x, encode (mk x) = encodeXB (fieldOp p) x (fieldNN p) := by intros; rfl)
    (hr : ∀ x, (mk x).row = ⟨0xF0FF#16, p⟩ := by intros; rfl) : Covered ⟨0xF0FF#16, p⟩ := by
  intro w hw
  have hop : fieldOp w = fieldOp p := fieldOp_of_masked (OpRow.matches_mk.mp hw) (by decide)
  have hnn : fieldNN w = fieldNN p := fieldNN_of_masked (OpRow.matches_mk.mp hw) (by decide)
  exact ⟨mk (fieldX w), by rw [he, ← hop, ← hnn, encodeXB_fields], hr _⟩

end OpRow.Covered

theorem opcodeRows_covered : ∀ r ∈ opcodeRows, r.Covered := by
  simp only [opcodeRows, List.forall_mem_cons]
  exact ⟨.word .cls, .word .ret, .addr .jp, .addr .call, .byte .seByte, .byte .sneByte, .regs .seReg, .byte .ldByte,
    .byte .addByte, .regs .ldReg, .regs .orReg, .regs .andReg, .regs .xorReg, .regs .addReg, .regs .subReg, .regs .shr,
    .regs .subnReg, .regs .shl, .regs .sneReg, .addr .ldI, .addr .jpV0, .byte .rnd, .count .drw, .reg .skp, .reg .sknp,
    .reg .ldVxDT, .reg .ldVxK, .reg .ldDTVx, .reg .ldSTVx, .reg .addIVx, .reg .ldFVx, .reg .ldBVx, .reg .stRegs,
    .reg .ldRegs, nofun⟩

/-! ### The word of a form matches the form's row -/

/-- The family RowMatch for every form, by the format of its word and the mask of its row. -/
theorem row_matches_encode (i : Instr) : i.row.matches (encode i) = true := by
  cases i with
  | cls | ret => rfl
  | jp | call | ldI | jpV0 => exact Laws.RowMatch.of_eq (Laws.RowMatch.formA _ _)
  | seByte | sneByte | ldByte | addByte | rnd => exact Laws.RowMatch.of_eq (Laws.RowMatch.formXB _ _ _)
  | drw => exact Laws.RowMatch.of_eq (Laws.RowMatch.formXYN _ _ _ _)
  | seReg | ldReg | orReg | andReg | xorReg | addReg | subReg | shr | subnReg | shl | sneReg =>
    exact Laws.RowMatch.of_eq (Laws.RowMatch.formXY _ _ _ _)
  | skp | sknp | ldVxDT | ldVxK | ldDTVx | ldSTVx | addIVx | ldFVx | ldBVx | stRegs | ldRegs =>
    exact Laws.RowMatch.of_eq (Laws.RowMatch.formXF _ _ _)

/-- A word that decodes is recognized: it is the word of a form, and matches that form's row. -/
theorem recognized_of_decodeWord {w : Word} {i : Instr} (h : decodeWord w = .ok i) : recognized w = true := by
  have hmem : i.row ∈ opcodeRows := List.contains_iff_mem.mp (wellFormed_all i)
  exact List.any_eq_true.mpr ⟨i.row, hmem, Machine.encode_of_decodeWord h ▸ row_matches_encode i⟩

/-! ### The words that no form has -/

theorem decode0_eq_error {w : Word} : decode0 w = .error (.unknownOpcode w) ↔ w ≠ 0x00E0 ∧ w ≠ 0x00EE := by
  unfold decode0
  split
  · next h => simp [h]
  · split
    · next h => simp [h]
    · next h0 h1 => exact iff_of_true rfl ⟨h0, h1⟩

theorem decodeXY0_eq_error {mk : Reg → Reg → Instr} {w : Word} :
    decodeXY0 mk w = .error (.unknownOpcode w) ↔ fieldN w ≠ 0 := by
  unfold decodeXY0
  by_cases hn : fieldN w = 0 <;> simp [hn]

theorem decode8_eq_error {w : Word} :
    decode8 w = .error (.unknownOpcode w) ↔ fieldN w ∈ [0x8, 0x9, 0xA, 0xB, 0xC, 0xD, 0xF] := by
  unfold decode8
  split
  case h_10 =>
    simp only [true_iff, imp_false, List.mem_cons] at *
    bv_omega
  all_goals next hn => simp [hn]

theorem decodeE_eq_error {w : Word} : decodeE w = .error (.unknownOpcode w) ↔ fieldNN w ∉ [0x9E, 0xA1] := by
  unfold decodeE
  split
  case h_3 =>
    simp only [imp_false] at *
    simp [*]
  all_goals next hnn => simp [hnn]

theorem decodeF_eq_error {w : Word} : decodeF w = .error (.unknownOpcode w) ↔
    fieldNN w ∉ [0x07, 0x0A, 0x15, 0x18, 0x1E, 0x29, 0x33, 0x55, 0x65] := by
  unfold decodeF
  split
  case h_10 =>
    simp only [imp_false] at *
    simp [*]
  all_goals next hnn => simp [hnn]

/-- No word is rejected for another reason. -/
theorem unknownOpcode_of_decodeWord {w : Word} {e : DecodeReject} (h : decodeWord w = .error e) :
    .unknownOpcode w = e := by
  unfold decodeWord decode0 decodeXY0 decode8 decodeE decodeF at h
  repeat' split at h
  all_goals injection h

theorem decodeWord_unrecognized {w : Word} (h : recognized w = false) : decodeWord w = .error (.unknownOpcode w) := by
  cases hd : decodeWord w with
  | ok i => simp [recognized_of_decodeWord hd] at h
  | error e => rw [unknownOpcode_of_decodeWord hd]

/-- Settles O1: the form's row is in the map, and the fields of its word are its operands. -/
theorem decodeOfEncode : Obligations.DecodeOfEncode := fun i => ⟨wellFormed_all i, decodeWord_encode i⟩

/-- Settles O2: the operands decoding reads are the word's fields, and the rest of the word is what the arm of the
decoder matched, so the form's format puts the same bits together again. -/
theorem encodeOfDecode : Obligations.EncodeOfDecode := fun _ _ h => Machine.encode_of_decodeWord h

/-- Settles O3: a word that matches a row is the word of a form of that row, which decoding gives back; a word that
decodes is recognized. -/
theorem decodeFollowsOpcodeMap : Obligations.DecodeFollowsOpcodeMap := by
  refine fun w => ⟨fun r hr hw => ?_, decodeWord_unrecognized⟩
  obtain ⟨i, rfl, hi⟩ := opcodeRows_covered r hr w hw
  exact ⟨i, decodeWord_encode i, hi⟩

/-- Settles O4, by the unrecognized words of each arm of the decoder. -/
theorem unrecognizedByNibble : Obligations.UnrecognizedByNibble := by
  intro w
  unfold decodeWord
  split
  case h_1 hop => rw [decode0_eq_error]; simp [hop]
  case h_6 hop => rw [decodeXY0_eq_error]; simp [hop]
  case h_9 hop => rw [decode8_eq_error]; simp [hop]
  case h_10 hop => rw [decodeXY0_eq_error]; simp [hop]
  case h_15 hop => rw [decodeE_eq_error]; simp [hop]
  case h_16 =>
    have hop : fieldOp w = 0xF#4 := by
      simp only [imp_false] at *
      bv_omega
    rw [decodeF_eq_error]; simp [hop]
  all_goals next hop => simp [hop]

/-- Settles O6: the model's decoder runs on each word. -/
theorem sampleWordsDecode : Obligations.SampleWordsDecode := by
  unfold Obligations.SampleWordsDecode
  decide

end Sys2Proof
end

section
/-! PROOFS. The step transaction by what the fetch and the decoder answer, and the machine's step when no transaction is
scheduled before it (30 R80–R82, R93). -/

namespace Sys2Proof.Machine

variable {s : State}

/-! ### The step transaction of a core that is not halted -/

theorem stepTxn_of_fetch_error {c : Raised} (hr : s.halted = false) (hf : fetch s = .error c) :
    stepTxn s = .next (takeFatal c none s) := by
  simp [stepTxn, hr, hf]

theorem stepStatus_of_fetch_error {c : Raised} (hr : s.halted = false) (hf : fetch s = .error c) :
    stepStatus s = some (.fault (faultRecord c none s)) := by
  simp [stepStatus, hr, hf]

theorem stepTxn_of_reject {w : Word} {e : DecodeReject} (hr : s.halted = false) (hf : fetch s = .ok w)
    (hd : decodeWord w = .error e) : stepTxn s = .next s.advance := by
  simp [stepTxn, hr, hf, hd]

theorem stepStatus_of_reject {w : Word} {e : DecodeReject} (hr : s.halted = false) (hf : fetch s = .ok w)
    (hd : decodeWord w = .error e) : stepStatus s = some (.unknown w s.pc) := by
  simp [stepStatus, hr, hf, hd]

theorem stepTxn_of_decode {w : Word} {i : Instr} (hr : s.halted = false) (hf : fetch s = .ok w)
    (hd : decodeWord w = .ok i) : stepTxn s = exec i s := by
  simp [stepTxn, hr, hf, hd]

theorem stepStatus_of_decode {w : Word} {i : Instr} (hr : s.halted = false) (hf : fetch s = .ok w)
    (hd : decodeWord w = .ok i) : stepStatus s = instrStatus i s := by
  simp [stepStatus, hr, hf, hd]

/-! ### The machine's step with nothing scheduled -/

theorem step_of_unscheduled (h : s.schedule = []) : step s = stepTxn s := by
  simp [step, nextTxn, h, transact]

theorem stepOutput_of_unscheduled (h : s.schedule = []) : stepOutput s = .status (stepStatus s) := by
  simp [stepOutput, nextTxn, h, txnOutput]

/-- A step whose fetch fails takes the condition, with a record that holds no opcode. -/
theorem step_of_fetch_error {c : Raised} (hs : s.schedule = []) (hr : s.halted = false) (hf : fetch s = .error c) :
    ∃ t r, step s = .next t ∧ r = faultRecord c none s ∧ t.halted = true ∧ t.fault = some r ∧
      Frame [] [.halted, .fault] noBytes s t ∧ stepOutput s = .status (some (.fault r)) := by
  refine ⟨_, _, ?_, rfl, takeFatal_halted s c none, takeFatal_fault s c none, frame_takeFatal c none s, ?_⟩
  · rw [step_of_unscheduled hs, stepTxn_of_fetch_error hr hf]
  · rw [stepOutput_of_unscheduled hs, stepStatus_of_fetch_error hr hf]

end Sys2Proof.Machine

namespace Sys2Proof

open Machine

/-- Settles O7, by the fetch in each of the three cases of its checks. -/
theorem fetchReadsTheWordAtPc : Obligations.FetchReadsTheWordAtPc := fun _ =>
  ⟨fetch_odd, fetch_outside, fun he hp => ⟨_, fetch_inside he hp, wordOfBytes_toNat _ _⟩⟩

/-- Settles O10: an odd pc fails the first check of the fetch, an even pc outside memory the second. -/
theorem failedFetchHalts : Obligations.FailedFetchHalts := fun _ hs hr =>
  ⟨fun hodd => step_of_fetch_error hs hr (fetch_odd hodd),
    fun he hp => step_of_fetch_error hs hr (fetch_outside he (by omega))⟩

/-- Settles O8. -/
theorem stepRunsTheDecodedInstruction : Obligations.StepRunsTheDecodedInstruction := by
  intro s w i hs hr hf hd
  rw [step_of_unscheduled hs, stepOutput_of_unscheduled hs, stepStatus_of_decode hr hf hd]
  exact ⟨stepTxn_of_decode hr hf hd, rfl⟩

/-- Settles O9: a word that matches no row is rejected, and the step only advances pc. -/
theorem unknownOpcodeIsReportedAndSkipped : Obligations.UnknownOpcodeIsReportedAndSkipped := by
  intro s w hs hr hf hw
  have hd := decodeWord_unrecognized hw
  refine ⟨?_, s.advance, ?_, advance_pc s, frame_advance (.head _) _ _ s⟩
  · rw [stepOutput_of_unscheduled hs, stepStatus_of_reject hr hf hd]
  · rw [step_of_unscheduled hs, stepTxn_of_reject hr hf hd]

end Sys2Proof
end

section
/-! PROOFS. Control flow (40_control_flow.md): each instruction's next state as its rule gives it, by the entry of the
call stack that a call or a return addresses, and a return that undoes a call. -/

namespace Sys2Proof.Machine

/-! ### What a completing instruction does -/

/-- An instruction that only sets pc (10 R25). -/
theorem completes_setPc {i : Instr} {s : State} {w : Word} {P : State → Prop} (he : exec i s = .next (s.setPc w))
    (hP : P (s.setPc w)) : Completes i s [] [.pc] noBytes P :=
  ⟨_, he, hP, frame_setPc (.head _) _ _ s w⟩

/-- A field that ends as it began need not stand in the frame. -/
theorem Frame.drop_part {regs : List Reg} {q : Part} {parts : List Part} {stored : Nat → Prop} {s t : State}
    (h : Frame regs (q :: parts) stored s t) (hq : q.same s t) : Frame regs parts stored s t where
  regs := h.regs
  parts := fun p hp => by
    by_cases e : p = q
    · exact e ▸ hq
    · exact h.parts p (by simp [e, hp])
  memory := h.memory

/-! ### Targets and skips -/

@[simp] theorem addrOperand_toNat (nnn : Addr12) : (addrOperand nnn).toNat = nnn.toNat :=
  BitVec.toNat_setWidth_of_le (by decide)

@[simp] theorem getV16_toNat (s : State) (x : Reg) : (s.getV16 x).toNat = (s.getV x).toNat :=
  BitVec.toNat_setWidth_of_le (by decide)

/-- BNNN's target does not wrap: it is at most 0xFFF + 0xFF (40 R107). -/
theorem addrOperand_add_getV16_toNat (nnn : Addr12) (s : State) (x : Reg) :
    (addrOperand nnn + s.getV16 x).toNat = nnn.toNat + (s.getV x).toNat := by
  have hlt : (addrOperand nnn).toNat + (s.getV16 x).toNat < 2 ^ 16 := by
    rw [addrOperand_toNat, getV16_toNat]
    omega
  rw [BitVec.toNat_add_of_lt hlt, addrOperand_toNat, getV16_toNat]

/-- A skip on equality (40 R103, R105). -/
theorem skipIf_beq_pc (s : State) (a b : Byte) : (s.skipIf (a == b)).pc = if a = b then s.pc + 4 else s.pc + 2 := by
  simp only [skipIf_pc, beq_iff_eq]

/-- A skip on inequality (40 R104, R106). -/
theorem skipIf_bne_pc (s : State) (a b : Byte) : (s.skipIf (a != b)).pc = if a = b then s.pc + 2 else s.pc + 4 := by
  simp only [skipIf_pc, bne_iff_ne, ite_not]

/-! ### The call stack, by the entry that is pushed or popped -/

variable {s : State} {k : Fin 16}

theorem exec_call_at (nnn : Addr12) (h : s.sp.val = k.val) :
    exec (.call nnn) s = .next (({ s with stack := s.stack.set k.val s.pc, sp := ⟨k.val + 1, by omega⟩ } :
      State).setPc (addrOperand nnn)) := by
  simp [exec_call_room nnn (show s.sp.val < 16 by omega), h]

theorem exec_ret_at (h : s.sp.val = k.val + 1) :
    exec .ret s = .next (({ s with sp := ⟨k.val, by omega⟩ } : State).setPc (s.stack[k] + 2)) := by
  simp [exec_ret_nonempty (show s.sp.val ≠ 0 by omega), h]

end Sys2Proof.Machine

namespace Sys2Proof

open Machine

/-- Settles O13: the only check is that of sp, and the entry popped is the one below it. -/
theorem returnPops : Obligations.ReturnPops := fun s =>
  ⟨fun h => raises_of_error (exec_ret_empty h), fun _ hk =>
    ⟨_, exec_ret_at hk, ⟨rfl, rfl⟩,
      (frame_stack _ _ s s.stack _ (.inl rfl) (by decide)).trans (frame_setPc (by decide) _ _ _ _)⟩⟩

/-- Settles O14, by the value of the target as a 16-bit word. -/
theorem jumpsSetPc : Obligations.JumpsSetPc := fun nnn s =>
  ⟨completes_setPc rfl (addrOperand_toNat nnn), completes_setPc rfl (addrOperand_add_getV16_toNat nnn s 0)⟩

/-- Settles O15: the only check is that of sp, and the entry written is the one at it. -/
theorem callPushes : Obligations.CallPushes := by
  refine fun nnn s => ⟨fun h => raises_of_error (exec_call_full nnn h), fun k hk => ?_⟩
  refine ⟨_, exec_call_at nnn hk, ⟨rfl, ?_, fun j hj => ?_, addrOperand_toNat nnn⟩,
    (frame_stack _ _ s _ _ (.inr (by decide)) (by decide)).trans (frame_setPc (by decide) _ _ _ _)⟩
  · simp
  · simp [Fin.val_ne_of_ne hj.symm]

/-- Settles O16. -/
theorem skipsComparingAnImmediate : Obligations.SkipsComparingAnImmediate := fun x nn s =>
  ⟨completes_setPc rfl (skipIf_beq_pc s (s.getV x) nn), completes_setPc rfl (skipIf_bne_pc s (s.getV x) nn)⟩

/-- Settles O17. -/
theorem skipsComparingRegisters : Obligations.SkipsComparingRegisters := fun x y s =>
  ⟨completes_setPc rfl (skipIf_beq_pc s (s.getV x) (s.getV y)),
    completes_setPc rfl (skipIf_bne_pc s (s.getV x) (s.getV y))⟩

/-- Settles O18: 00EE pops the entry that 2NNN pushed (O15, then O13), and sp ends as it began. -/
theorem callThenReturn : Obligations.CallThenReturn := by
  intro nnn s hsp
  obtain ⟨k, hk⟩ : ∃ k : Fin 16, s.sp.val = k.val := ⟨⟨_, hsp⟩, rfl⟩
  obtain ⟨t, hcall, ⟨hpushed, hentry, hothers, -⟩, hst⟩ := (callPushes nnn s).2 k hk
  obtain ⟨u, hret, ⟨hpopped, hpc⟩, htu⟩ := (returnPops t).2 k hpushed
  have hsp' : u.sp = s.sp := Fin.ext (hpopped.trans hk.symm)
  have hstack : u.stack = t.stack := htu.parts .stack (by decide)
  have hsu : Frame [] [.sp, .pc, .stack] noBytes s u :=
    (hst.mono (by simp) (by simp) fun _ h => h).trans (htu.mono (by simp) (by simp) fun _ h => h)
  refine ⟨t, u, hcall, hret, by rw [hpc, hentry], hsp', fun j hj => ?_, hsu.drop_part hsp'⟩
  rw [hstack]
  exact hothers j fun e => hj (e ▸ hk.symm)

end Sys2Proof
end

section
/-! PROOFS. Registers and arithmetic (41_registers_alu.md): an instruction that writes a register, or VF and then a
register, completes with what it wrote; the flags and the arithmetic of one byte as numbers. -/

namespace Sys2Proof.Machine

/-! ### What a completing instruction writes -/

/-- A completion says whatever follows from what it says. -/
theorem Completes.imp {i : Instr} {s : State} {regs : List Reg} {parts : List Part} {stored : Nat → Prop}
    {P Q : State → Prop} (h : Completes i s regs parts stored P) (hPQ : ∀ t, P t → Q t) :
    Completes i s regs parts stored Q :=
  let ⟨t, he, hP, hf⟩ := h
  ⟨t, he, hPQ t hP, hf⟩

variable {i : Instr} {s : State} {x : Reg} {f b : Byte}

/-- A register written, then pc + 2. -/
theorem completes_setV (he : exec i s = .next (s.setV x b).advance) :
    Completes i s [x] [.pc] noBytes fun t => t.getV x = b ∧ t.pc = s.pc + 2 :=
  ⟨_, he, ⟨getV_setV_self s x b, rfl⟩, (frame_setV (.head _) _ _ s b).trans (frame_advance (.head _) _ _ _)⟩

/-- A flag and then a register written, then pc + 2: the flag is lost where the register is VF (decision D3). -/
theorem completes_setVF_setV (he : exec i s = .next ((s.setVF f).setV x b).advance) :
    Completes i s [vF, x] [.pc] noBytes fun t =>
      t.getV x = b ∧ (x ≠ vF → t.getV vF = f) ∧ t.pc = s.pc + 2 := by
  refine ⟨_, he, ⟨getV_setV_self _ x b, fun hx => ?_, rfl⟩, ?_⟩
  · calc ((s.setVF f).setV x b).getV vF
      _ = (s.setVF f).getV vF := getV_setV_ne _ hx.symm b
      _ = f := getV_setV_self s vF f
  · have hx : x ∈ [vF, x] := .tail _ (.head _)
    exact ((frame_setVF (.head _) _ _ s f).trans (frame_setV hx _ _ _ b)).trans (frame_advance (.head _) _ _ _)

/-! ### An operand read after the flag was written (decision D3) -/

theorem getV_setVF_toNat (s : State) (q : Reg) (f : Byte) :
    ((s.setVF f).getV q).toNat = if q = vF then f.toNat else (s.getV q).toNat := by
  rw [getV_setVF, apply_ite BitVec.toNat]

/-! ### The flags as numbers (41 R120) -/

theorem carryFlag_eq (a b : Byte) : carryFlag a b = if 255 < a.toNat + b.toNat then 1 else 0 := by
  simp only [carryFlag, flag, decide_eq_true_eq, gt_iff_lt]

theorem noBorrowFlag_toNat (a b : Byte) : (noBorrowFlag a b).toNat = if a.toNat < b.toNat then 0 else 1 := by
  by_cases h : a.toNat < b.toNat <;> simp [noBorrowFlag, flag, h]

theorem shiftRightFlag_toNat (v : Byte) : (shiftRightFlag v).toNat = v.toNat % 2 := by
  simp [shiftRightFlag]

theorem shiftLeftFlag_toNat (v : Byte) : (shiftLeftFlag v).toNat = v.toNat / 128 := by
  simp [shiftLeftFlag, Nat.shiftRight_eq_div_pow]

/-! ### Arithmetic of one byte as numbers -/

theorem Byte.toNat_sub (a b : Byte) : (a - b).toNat = (a.toNat + 256 - b.toNat) % 256 := by
  have hb := b.isLt
  rw [BitVec.toNat_sub]
  congr 1
  omega

theorem Byte.toNat_ushiftRight_one (v : Byte) : (v >>> 1).toNat = v.toNat / 2 := by
  simp [Nat.shiftRight_eq_div_pow]

theorem Byte.toNat_shiftLeft_one (v : Byte) : (v <<< 1).toNat = 2 * v.toNat % 256 := by
  simp [Nat.shiftLeft_eq, Nat.mul_comm]

/-! ### A difference with its borrow flag (41 R128, R130) -/

/-- `V[p] - V[q]` written to V[x], each operand that is VF read as the flag `n` written before it (decision D3). -/
theorem completes_difference {p q : Reg} {n : Nat} (hn : f.toNat = n)
    (he : exec i s = .next ((s.setVF f).setV x ((s.setVF f).getV p - (s.setVF f).getV q)).advance) :
    Completes i s [vF, x] [.pc] noBytes fun t =>
      (t.getV x).toNat = ((if p = vF then n else (s.getV p).toNat) + 256 -
        (if q = vF then n else (s.getV q).toNat)) % 256 ∧
      (x ≠ vF → (t.getV vF).toNat = n) ∧ t.pc = s.pc + 2 := by
  subst hn
  refine (completes_setVF_setV he).imp fun t ⟨hv, hvF, hpc⟩ => ⟨?_, fun hx => hvF hx ▸ rfl, hpc⟩
  rw [hv, Byte.toNat_sub, getV_setVF_toNat, getV_setVF_toNat]

end Sys2Proof.Machine

namespace Sys2Proof

open Machine

/-- Settles O21: the sum is taken before VF is written, so no operand is the flag (decision D3). -/
theorem addWithCarry : Obligations.AddWithCarry := fun x y s =>
  (completes_setVF_setV rfl).imp fun _ ⟨hv, hf, hpc⟩ =>
    ⟨hv ▸ BitVec.toNat_add (s.getV x) (s.getV y), fun hx => (hf hx).trans (carryFlag_eq _ _), hpc⟩

/-- Settles O22: the minuend is V[x], the subtrahend V[y]. -/
theorem subtractWithBorrowFlag : Obligations.SubtractWithBorrowFlag := by
  rintro x y s f a b hf rfl rfl
  exact completes_difference ((noBorrowFlag_toNat _ _).trans hf.symm) rfl

/-- Settles O23: the minuend is V[y], the subtrahend V[x]. -/
theorem reverseSubtractWithBorrowFlag : Obligations.ReverseSubtractWithBorrowFlag := by
  rintro x y s f a b hf rfl rfl
  exact completes_difference ((noBorrowFlag_toNat _ _).trans hf.symm) rfl

/-- Settles O24: what is shifted is V[x] as the flag's write left it, the flag itself where x is VF (decision D3). -/
theorem shiftsByOne : Obligations.ShiftsByOne := by
  refine fun x y s => ⟨(completes_setVF_setV rfl).imp ?_, (completes_setVF_setV rfl).imp ?_⟩
  · rintro t ⟨hv, hvF, hpc⟩
    refine ⟨fun hx => ⟨?_, ?_⟩, ?_, hpc⟩
    · rw [hv, Byte.toNat_ushiftRight_one, getV_setVF_toNat, if_neg hx]
    · rw [hvF hx, shiftRightFlag_toNat]
    · rintro rfl
      apply BitVec.eq_of_toNat_eq
      rw [hv, Byte.toNat_ushiftRight_one, getV_setVF_toNat, if_pos rfl, shiftRightFlag_toNat]
      exact Nat.div_eq_of_lt (Nat.mod_lt _ two_pos)
  · rintro t ⟨hv, hvF, hpc⟩
    refine ⟨fun hx => ⟨?_, ?_⟩, ?_, hpc⟩
    · rw [hv, Byte.toNat_shiftLeft_one, getV_setVF_toNat, if_neg hx]
    · rw [hvF hx, shiftLeftFlag_toNat]
    · rintro rfl
      have hlt := (s.getV vF).isLt
      rw [hv, Byte.toNat_shiftLeft_one, getV_setVF_toNat, if_pos rfl, shiftLeftFlag_toNat]
      omega

/-- Settles O19. -/
theorem loadsAndImmediateAdd : Obligations.LoadsAndImmediateAdd := fun x _ nn s =>
  ⟨completes_setV rfl,
    (completes_setV rfl).imp fun _ ⟨hv, hpc⟩ => ⟨hv ▸ BitVec.toNat_add (s.getV x) nn, hpc⟩,
    completes_setV rfl⟩

/-- Settles O20, by the bits of OR, AND and XOR. -/
theorem logicOperations : Obligations.LogicOperations := fun _ _ _ =>
  ⟨(completes_setV rfl).imp fun _ ⟨hv, hpc⟩ => ⟨fun _ _ => hv ▸ BitVec.getLsbD_or, hpc⟩,
    (completes_setV rfl).imp fun _ ⟨hv, hpc⟩ => ⟨fun _ _ => hv ▸ BitVec.getLsbD_and, hpc⟩,
    (completes_setV rfl).imp fun _ ⟨hv, hpc⟩ => ⟨fun _ _ => hv ▸ BitVec.getLsbD_xor, hpc⟩⟩

/-- Settles O25, for any draw. -/
theorem randomAndImmediate : Obligations.RandomAndImmediate := by
  intro x nn s
  have hv : ((randomAnd (Config.rand s.draws) x nn s).countDraw).getV x = Config.rand s.draws &&& nn :=
    getV_setV_self s x _
  refine ⟨_, rfl, ⟨fun k _ => hv ▸ BitVec.getLsbD_and, rfl, rfl⟩, ?_⟩
  exact ((frame_setV (.head _) _ _ s _).trans (frame_advance (.head _) _ _ _)).trans
    (frame_countDraw (by decide) _ _ _)

end Sys2Proof
end

section
/-! PROOFS. The index register and memory (42_index_memory.md): an instruction that writes I completes; one that stores
to or loads from EA(0) up completes where its last address is inside memory, and raises elsewhere. -/

namespace Sys2Proof.Machine

variable {i : Instr} {s : State}

/-! ### The index register -/

/-- I written, then pc + 2. -/
theorem completes_setI {w : Word} (he : exec i s = .next (s.setI w).advance) :
    Completes i s [] [.i, .pc] noBytes fun t => t.i = w ∧ t.pc = s.pc + 2 :=
  ⟨_, he, ⟨rfl, rfl⟩, (frame_setI (.head _) _ _ s w).trans (frame_advance (.tail _ (.head _)) _ _ _)⟩

/-- A glyph's address does not wrap: it is at most 5 · 0xFF. -/
theorem glyphAddr_toNat (v : Byte) : (glyphAddr v).toNat = 5 * v.toNat := by
  unfold glyphAddr
  bv_omega

/-! ### An access to EA(0) up to EA(n) -/

/-- It is inside memory when its last address is. -/
theorem ea_range_le {n : Nat} (h : ea s n ≤ 0xFFF) : ea s 0 + (n + 1) ≤ 0x1000 := Nat.succ_le_succ h

/-- The first EA(k) outside memory is 0x1000, since EA(0) is inside. -/
theorem ea_eq_of_first_outside {k : Nat} (hk : 0xFFF < ea s k) (hj : ∀ j < k, ea s j ≤ 0xFFF) : ea s k = 0x1000 := by
  cases k with
  | zero => exact absurd (ea_zero_lt s) (Nat.not_lt.mpr hk)
  | succ k => exact Nat.le_antisymm (Nat.succ_le_succ (hj k k.lt_succ_self)) hk

/-- An access that raises where it leaves memory records the first EA(k) outside (60 R213). -/
theorem raises_first_outside {n k : Nat}
    (he : 0x1000 < ea s 0 + (n + 1) → exec i s = raised i (.memoryOutOfRange 0x1000) s) (hkn : k ≤ n)
    (hk : 0xFFF < ea s k) (hj : ∀ j < k, ea s j ≤ 0xFFF) : Raises i s .memoryOutOfRange (.address (ea s k)) := by
  have hn : 0x1000 < ea s 0 + (n + 1) := by
    rw [ea_add] at hk
    omega
  rw [ea_eq_of_first_outside hk hj]
  exact raises_of_error (he hn)

/-! ### Stores and loads -/

/-- `n` bytes stored from EA(0) up, then pc + 2: each is read back at its EA(k). -/
theorem completes_store {bs : List Byte} {n : Nat} (hn : bs.length = n)
    (he : exec i s = .next (s.setMem (s.mem.writeAll (ea s 0) bs)).advance) (hw : s.mem.wf = true)
    (hb : ea s 0 + n ≤ 0x1000) :
    Completes i s [] [.pc] (bytesAt (ea s 0) n) fun t =>
      (∀ k < n, t.mem.read (ea s k) = bs.getD k 0) ∧ t.pc = s.pc + 2 := by
  subst hn
  refine ⟨_, he, ⟨fun k hk => ?_, rfl⟩, (frame_setMem hw hb _ _).trans (frame_advance (.head _) _ _ _)⟩
  rw [advance_mem, setMem_mem, Memory.read_writeAll hw hb, ea_add s k, if_pos (by omega), Nat.add_sub_cancel_left]

/-- The decimal digits as numbers. -/
theorem bcdDigits_getD_toNat (v : Byte) :
    ((bcdDigits v).getD 0 0).toNat = v.toNat / 100 ∧ ((bcdDigits v).getD 1 0).toNat = v.toNat / 10 % 10 ∧
      ((bcdDigits v).getD 2 0).toNat = v.toNat % 10 := by
  have hv := v.isLt
  have hdigit {d : Nat} (hd : d < 256) : (BitVec.ofNat 8 d).toNat = d := Nat.mod_eq_of_lt hd
  exact ⟨hdigit (by omega), hdigit (by omega), hdigit (by omega)⟩

theorem bytesAtI_getD (s : State) {n k : Nat} (hk : k < n) : (bytesAtI s n).getD k 0 = s.mem.read (ea s k) := by
  rw [List.getD_eq_getElem _ _ (by rwa [bytesAtI_length])]
  simp [bytesAtI, ← ea_add]

/-- V[0] to V[x] loaded from EA(0) up, then pc + 2. -/
theorem completes_load {x : Reg} (he : exec i s = .next (s.setVsFrom 0 (bytesAtI s (x.val + 1))).advance) :
    Completes i s (regsTo x) [.pc] noBytes fun t =>
      (∀ k : Reg, k ≤ x → t.getV k = s.mem.read (ea s k.val)) ∧ t.pc = s.pc + 2 := by
  refine ⟨_, he, ⟨fun k hk => ?_, ?_⟩,
    (frame_setVsFrom (bytesAtI_length _) _ _ s).trans (frame_advance (.head _) _ _ _)⟩
  · have hlt : k.val < x.val + 1 := Nat.lt_succ_of_le hk
    rw [getV_advance, getV_setVsFrom, bytesAtI_length, if_pos (by omega), Nat.sub_zero, bytesAtI_getD s hlt]
  · rw [setVsFrom_eq]
    rfl

end Sys2Proof.Machine

namespace Sys2Proof

open Machine

/-- Settles O27: the three bytes are read back as the digits of V[x]. -/
theorem storeDecimalDigits : Obligations.StoreDecimalDigits := by
  refine fun x s hw => ⟨fun h => ?_, fun k hk => raises_first_outside (exec_ldBVx_outside x) hk⟩
  have hin := ea_range_le h
  refine (completes_store (n := 3) rfl (exec_ldBVx_inside x hin) hw hin).imp fun t ⟨hread, hpc⟩ => ?_
  obtain ⟨h0, h1, h2⟩ := bcdDigits_getD_toNat (s.getV x)
  rw [hread 0 (by decide), hread 1 (by decide), hread 2 (by decide)]
  exact ⟨h0, h1, h2, hpc⟩

/-- Settles O28: the bytes stored are V[0] to V[x], and each is read back. -/
theorem storeRegisters : Obligations.StoreRegisters := by
  refine fun x s hw => ⟨fun h => ?_, fun k hk => raises_first_outside exec_stRegs_outside hk⟩
  have hin := ea_range_le h
  refine (completes_store (regsUpTo_length s x) (exec_stRegs_inside hin) hw hin).imp fun t ⟨hread, hpc⟩ => ?_
  exact ⟨fun k hk => (hread k.val (Nat.lt_succ_of_le hk)).trans (regsUpTo_getD s x hk k.isLt), hpc⟩

/-- Settles O29: the bytes are read before any register is written. -/
theorem loadRegisters : Obligations.LoadRegisters := fun _ _ =>
  ⟨fun h => completes_load (exec_ldRegs_inside (ea_range_le h)),
    fun _ hk => raises_first_outside exec_ldRegs_outside hk⟩

/-- Settles O26, by the values written to I as numbers. -/
theorem indexRegisterLoads : Obligations.IndexRegisterLoads := fun nnn x s =>
  ⟨(completes_setI rfl).imp fun _ ⟨hi, hpc⟩ => ⟨hi ▸ addrOperand_toNat nnn, hpc⟩,
    (completes_setI rfl).imp fun _ ⟨hi, hpc⟩ => ⟨by rw [hi, BitVec.toNat_add, getV16_toNat], hpc⟩,
    (completes_setI rfl).imp fun _ ⟨hi, hpc⟩ => ⟨hi ▸ glyphAddr_toNat (s.getV x), hpc⟩⟩

end Sys2Proof
end

section
/-! PROOFS. The display (43_display.md): the pixels a sprite's set bits address, each of them once; and 00E0 and DXYN,
which complete with the screen, the collision result and the draw flag they write. -/

namespace Sys2Proof.Machine

/-! ### The screen by its pixels -/

/-- A screen is its 2048 pixels (10 R32). -/
theorem framebuffer_ext {fb gb : Framebuffer} (h : ∀ p, pixelOf fb p = pixelOf gb p) : fb = gb := by
  apply Vector.ext
  intro j hj
  apply BitVec.eq_of_getLsbD_eq
  exact fun k hk => h (⟨k, hk⟩, ⟨j, hj⟩)

theorem flag_eq_one {b : Bool} : flag b = 1 ↔ b = true := by
  cases b <;> decide

theorem flag_eq_zero {b : Bool} : flag b = 0 ↔ b = false := by
  cases b <;> decide

/-! ### The pixels of a sprite (43 R171, R176) -/

theorem eq_spritePixel_iff {p : Pixel} {x0 y0 row col : Nat} :
    p = spritePixel x0 y0 row col ↔ p.1.val = (x0 + col) % 64 ∧ p.2.val = (y0 + row) % 32 := by
  simp [spritePixel, Prod.ext_iff, Fin.ext_iff]

theorem mem_rowPixels {p : Pixel} {x0 y0 row : Nat} {b : Byte} :
    p ∈ rowPixels x0 y0 row b ↔ ∃ col < 8, b.getLsbD (7 - col) = true ∧ p = spritePixel x0 y0 row col := by
  simp [rowPixels, and_assoc, eq_comm (a := p)]

theorem mem_spritePixels {p : Pixel} {x0 y0 row : Nat} {bs : List Byte} :
    p ∈ spritePixels x0 y0 row bs ↔ ∃ k < bs.length, p ∈ rowPixels x0 y0 (row + k) (bs.getD k 0) := by
  induction bs generalizing row with
  | nil => simp [spritePixels]
  | cons b bs ih =>
    rw [spritePixels, List.mem_append, ih, List.length_cons, Nat.exists_lt_succ_left]
    simp [Nat.add_assoc, Nat.add_comm 1]

/-- A row of 8 columns does not reach round the 64 of the screen (43 R177). -/
theorem nodup_rowPixels (x0 y0 row : Nat) (b : Byte) : (rowPixels x0 y0 row b).Nodup := by
  refine List.Nodup.map_on (fun c hc d hd h => ?_) (List.nodup_range.filter _)
  have hc8 := List.mem_range.mp (List.mem_of_mem_filter hc)
  have hd8 := List.mem_range.mp (List.mem_of_mem_filter hd)
  obtain ⟨hx, -⟩ := eq_spritePixel_iff.mp h
  simp only [spritePixel, Fin.val_ofNat] at hx
  omega

/-- At most 32 rows do not reach round the 32 of the screen (43 R177). -/
theorem nodup_spritePixels (x0 y0 row : Nat) {bs : List Byte} (h : bs.length ≤ 32) :
    (spritePixels x0 y0 row bs).Nodup := by
  induction bs generalizing row with
  | nil => exact List.nodup_nil
  | cons b bs ih =>
    rw [List.length_cons] at h
    refine (nodup_rowPixels x0 y0 row b).append (ih (row + 1) (by omega)) fun p hp hq => ?_
    obtain ⟨k, hk, hr⟩ := mem_spritePixels.mp hq
    obtain ⟨c, -, -, hpc⟩ := mem_rowPixels.mp hp
    obtain ⟨d, -, -, hpd⟩ := mem_rowPixels.mp hr
    have hyc := (eq_spritePixel_iff.mp hpc).2
    have hyd := (eq_spritePixel_iff.mp hpd).2
    omega

/-- Distinct pixels may be drawn in any order (43 R177). -/
theorem blit_perm {ps qs : List Pixel} (fb : Framebuffer) (hp : ps.Perm qs) (hq : qs.Nodup) :
    blit fb ps = blit fb qs := by
  obtain ⟨hps, hpc⟩ := blit_eq fb ps (hp.nodup_iff.mpr hq)
  obtain ⟨hqs, hqc⟩ := blit_eq fb qs hq
  have hfb : (blit fb ps).1 = (blit fb qs).1 := framebuffer_ext fun p => by rw [hps, hqs]; simp only [hp.mem_iff]
  exact Prod.ext hfb (by rw [hpc, hqc, hp.any_eq])

/-! ### DXYN -/

/-- The pixels DXYN flips: those of the sprite of `n` rows at I, drawn at (V[x], V[y]). -/
def spriteAtI (s : State) (x y : Reg) (n : Nat) : List Pixel :=
  spritePixels ((s.getV x).toNat % 64) ((s.getV y).toNat % 32) 0 (bytesAtI s n)

variable {s : State} {x y : Reg}

theorem mem_spriteAtI {n : Nat} {p : Pixel} : p ∈ spriteAtI s x y n ↔ SpriteCovers s x y n p := by
  simp only [spriteAtI, mem_spritePixels, bytesAtI_length, Nat.zero_add, mem_rowPixels, eq_spritePixel_iff,
    SpriteCovers]
  refine exists_congr fun k => and_congr_right fun hk => ?_
  rw [bytesAtI_getD s hk]

@[simp] theorem spriteAtI_zero (s : State) (x y : Reg) : spriteAtI s x y 0 = [] := rfl

theorem nodup_spriteAtI (n : BitVec 4) : (spriteAtI s x y n.toNat).Nodup :=
  nodup_spritePixels _ _ _ (by rw [bytesAtI_length]; omega)

/-- DXYN reads its coordinates and its sprite, so it draws the same pixels wherever these are the same. -/
theorem spriteAtI_congr {t : State} (hx : t.getV x = s.getV x) (hy : t.getV y = s.getV y) (hi : t.i = s.i)
    (hm : ∀ a, t.mem.read a = s.mem.read a) (n : Nat) : spriteAtI t x y n = spriteAtI s x y n := by
  simp only [spriteAtI, bytesAtI, hx, hy, ea_congr hi, hm]

/-- A sprite inside memory is drawn: its pixels are flipped, VF tells whether one of them was set (43 R171, R173). -/
theorem completes_drw (x y : Reg) {n : BitVec 4} (h : ea s 0 + n.toNat ≤ 0x1000) :
    Completes (.drw x y n) s [vF] [.fb, .draw, .pc] noBytes fun t =>
      (∀ p, pixelOf t.fb p = (pixelOf s.fb p ^^ decide (p ∈ spriteAtI s x y n.toNat))) ∧
      t.getV vF = flag ((spriteAtI s x y n.toNat).any (pixelOf s.fb ·)) ∧ t.draw = true ∧ t.pc = s.pc + 2 := by
  obtain ⟨hpixels, hcollision⟩ := blit_eq s.fb (spriteAtI s x y n.toNat) (nodup_spriteAtI n)
  refine ⟨_, exec_drw_inside x y h, ⟨hpixels, ?_, rfl, rfl⟩, ?_⟩
  · exact hcollision ▸ getV_setV_self _ vF _
  · exact ((frame_present (.head _) (.tail _ (.head _)) _ _ s _).trans (frame_setVF (.head _) _ _ _ _)).trans
      (frame_advance (by decide) _ _ _)

end Sys2Proof.Machine

namespace Sys2Proof

open Machine

/-- Settles O34: the pixels of the sprite are distinct, so each is flipped once and tested as it was before. -/
theorem drawFlipsTheSprite : Obligations.DrawFlipsTheSprite := by
  refine fun x y n s => ⟨fun h => (completes_drw x y h).imp ?_, fun row hrow => ?_⟩
  · rintro t ⟨hpixels, hvF, hdraw, hpc⟩
    refine ⟨fun p hp => ?_, fun p hp => ?_, fun ⟨p, hp, hset⟩ => ?_, fun hclear => ?_, hdraw, hpc⟩
    · simp [hpixels, mem_spriteAtI, hp]
    · simp [hpixels, mem_spriteAtI, hp]
    · rw [hvF, flag_eq_one, List.any_eq_true]
      exact ⟨p, mem_spriteAtI.mpr hp, hset⟩
    · rw [hvF, flag_eq_zero, List.any_eq_false]
      exact fun p hp => by simp [hclear p (mem_spriteAtI.mp hp)]
  · exact raises_first_outside (n := n.toNat - 1) (fun h => exec_drw_outside x y (by omega)) (by omega)

/-- Settles O36. -/
theorem spritePixelsAreDistinct : Obligations.SpritePixelsAreDistinct := fun fb x0 y0 _ h =>
  have hnd := nodup_spritePixels x0 y0 0 (h.trans (by decide))
  ⟨hnd, fun _ hp => blit_perm fb hp hnd⟩

/-- Settles O37: the first draw leaves the sprite and its coordinates as they were, so the second flips the same pixels
back, and finds set what the first found clear. -/
theorem drawTwiceErases : Obligations.DrawTwiceErases := by
  intro x y n s t u hx hy h hst htu
  obtain ⟨t', hst', ⟨hpix, -, -, -⟩, hframe⟩ := completes_drw x y h
  obtain rfl : t' = t := by simpa using hst'.symm.trans hst
  have hi : t'.i = s.i := hframe.parts .i (by decide)
  have hsame : spriteAtI t' x y n.toNat = spriteAtI s x y n.toNat :=
    spriteAtI_congr (hframe.regs x (by simpa using hx)) (hframe.regs y (by simpa using hy)) hi
      (fun a => hframe.memory a id) _
  obtain ⟨u', htu', ⟨hpix', hvF, -, -⟩, -⟩ := completes_drw x y (ea_congr hi 0 ▸ h)
  obtain rfl : u' = u := by simpa using htu'.symm.trans htu
  constructor
  · exact framebuffer_ext fun p => by rw [hpix', hpix, hsame, Bool.xor_assoc, Bool.xor_self, Bool.xor_false]
  · rw [hvF, hsame, flag_eq_one, List.any_eq_true]
    refine exists_congr fun p => ?_
    rw [← mem_spriteAtI]
    exact and_congr_right fun hp => by simp [hpix, hp]

/-- Settles O33. -/
theorem clearScreen : Obligations.ClearScreen := fun s =>
  ⟨_, rfl, ⟨pixelOf_clear, rfl, rfl⟩,
    (frame_present (.head _) (.tail _ (.head _)) _ _ s _).trans (frame_advance (by decide) _ _ _)⟩

/-- Settles O35: a sprite of no rows has no pixels, so the screen ends as it began. -/
theorem drawOfNoRows : Obligations.DrawOfNoRows := by
  intro x y s
  obtain ⟨t, he, ⟨hpixels, hvF, hdraw, hpc⟩, hframe⟩ := completes_drw x y (n := 0) (ea_zero_lt s).le
  have hfb : t.fb = s.fb := framebuffer_ext fun p => by simp [hpixels]
  exact ⟨t, he, ⟨hvF, hdraw, hpc⟩, hframe.drop_part hfb⟩

end Sys2Proof
end

section
/-! PROOFS. The keypad and the timers (44_keys_timers.md): the skips by a key's state, FX0A by the lowest pressed key, and
the moves between V and the timers. -/

namespace Sys2Proof.Machine

variable {i : Instr} {s t : State}

/-! ### A skip on a key that is not pressed (44 R191) -/

theorem skipIf_not_pc (s : State) (c : Bool) : (s.skipIf !c).pc = if c = true then s.pc + 2 else s.pc + 4 := by
  cases c <;> rfl

/-! ### The lowest pressed key (44 R193) -/

theorem key_eq_zero {key : BitVec 16} (h : ∀ j < 16, key.getLsbD j = false) : key = 0 :=
  BitVec.eq_of_getLsbD_eq fun j hj => by simp [h j hj]

/-- A pressed key with none pressed below it is the one found. -/
theorem lowestKey_eq_some {key : BitVec 16} {k : Nat} (hk : key.getLsbD k = true)
    (hlow : ∀ j < k, key.getLsbD j = false) : lowestKey key = some k := by
  cases hl : lowestKey key with
  | none => simp [lowestKey_none.mp hl] at hk
  | some m =>
    obtain ⟨-, hm, hmlow⟩ := lowestKey_some hl
    have hkm : ¬ k < m := fun h => by simp [hmlow k h] at hk
    have hmk : ¬ m < k := fun h => by simp [hlow m h] at hm
    exact congrArg some (by omega)

/-! ### The status of an instruction that does not halt -/

theorem instrStatus_of_next (he : exec i s = .next t) (hr : t.halted = false) :
    instrStatus i s = some (if waits i s then .waiting else .executed) := by
  simp only [instrStatus, he, hr]

end Sys2Proof.Machine

namespace Sys2Proof

open Machine

/-- Settles O38: the only check is that of V[x], and a key number that passes it gives the skip's condition. -/
theorem keySkips : Obligations.KeySkips := fun _ s =>
  ⟨fun hv => ⟨completes_setPc (exec_skp_key rfl hv) (skipIf_pc s _),
      completes_setPc (exec_sknp_key rfl hv) (skipIf_not_pc s _)⟩,
    fun hv => ⟨raises_of_error (exec_skp_noKey rfl hv), raises_of_error (exec_sknp_noKey rfl hv)⟩⟩

/-- Settles O40: with no key pressed the state is its own next state; else the key found is the lowest one. -/
theorem waitForKey : Obligations.WaitForKey := by
  refine fun x s hr => ⟨fun hnone => ?_, fun k hk16 hk hlow => ?_⟩
  · have hkey := key_eq_zero hnone
    have he := exec_ldVxK_waiting x hkey
    have hwaits : waits (.ldVxK x) s = true := by simp [waits, lowestKey_none.mpr hkey]
    exact ⟨he, by rw [instrStatus_of_next he hr, if_pos hwaits]⟩
  · have hlowest := lowestKey_eq_some hk hlow
    have he := exec_ldVxK_pressed x hlowest
    have hwaits : ¬ waits (.ldVxK x) s = true := by simp [waits, hlowest]
    refine ⟨(completes_setV he).imp fun t ⟨hv, hpc⟩ => ⟨?_, hpc⟩, by rw [instrStatus_of_next he hr, if_neg hwaits]⟩
    rw [hv, BitVec.toNat_ofNat, Nat.mod_eq_of_lt (by omega)]

/-- Settles O39. -/
theorem timerMoves : Obligations.TimerMoves := fun _ s =>
  ⟨completes_setV rfl,
    ⟨_, rfl, ⟨rfl, rfl⟩, (frame_setDelay (.head _) _ _ s _).trans (frame_advance (by decide) _ _ _)⟩,
    ⟨_, rfl, ⟨rfl, rfl⟩, (frame_setSound (.head _) _ _ s _).trans (frame_advance (by decide) _ _ _)⟩⟩

end Sys2Proof
end

section
/-! PROOFS. Fatal conditions and the schedule (60_exceptions.md, 70_reset_and_hazards.md): an instruction neither reads
nor writes the halt bit, the record and the schedule unless it raises (`exec_withHostOf`), everything a `step` can do
(`stepTxn_cases`), and a transaction that carries any schedule through. -/

namespace Sys2Proof.Machine

variable {i : Instr} {s t t' : State}

/-! ### The state that no instruction sees -/

/-- `s` with the halt bit, the fault record and the schedule of `u`. -/
def State.withHostOf (s u : State) : State :=
  { s with halted := u.halted, fault := u.fault, schedule := u.schedule }

@[simp] theorem withHostOf_halted (s u : State) : (s.withHostOf u).halted = u.halted := rfl

/-- `s` with the schedule `ts`. -/
def State.withSchedule (s : State) (ts : List Txn) : State := { s with schedule := ts }

@[simp] theorem withSchedule_schedule (s : State) (ts : List Txn) : (s.withSchedule ts).schedule = ts := rfl

/-- Registers written in bulk commute with an update that commutes with each single write. -/
theorem setVsFrom_map {f : State → State} (hf : ∀ s r b, (f s).setV r b = f (s.setV r b)) (s : State) (k : Nat)
    (bs : List Byte) : (f s).setVsFrom k bs = f (s.setVsFrom k bs) := by
  induction bs generalizing s k with
  | nil => rfl
  | cons b bs ih =>
    unfold State.setVsFrom
    split
    · rw [hf, ih]
    · rfl

/-- `t` keeps the halt bit, the record and the schedule of `s`, and `i` computes the rest of `t` whatever they are; or
`i` takes the one condition it can raise (60 R211), whatever they are. -/
def HostBlind (i : Instr) (s t : State) : Prop :=
  (t.withHostOf s = t ∧ ∀ u, exec i (s.withHostOf u) = .next (t.withHostOf u)) ∨
    ∃ c : Raised, mayRaise i = some c.condition ∧ t = takeFatal c (some (encode i)) s ∧
      ∀ u, exec i (s.withHostOf u) = raised i c (s.withHostOf u)

theorem HostBlind.of_next (he : exec i s = .next t')
    (hu : ∀ u, exec i (s.withHostOf u) = .next (t'.withHostOf u)) (h : exec i s = .next t) : HostBlind i s t := by
  cases he.symm.trans h
  have hs : t.withHostOf s = t := Host.Outcome.next.inj ((hu s).symm.trans he)
  exact .inl ⟨hs, hu⟩

theorem HostBlind.of_raised {c : Raised} (hu : ∀ u, exec i (s.withHostOf u) = raised i c (s.withHostOf u))
    (hi : mayRaise i = some c.condition) (h : exec i s = .next t) : HostBlind i s t :=
  .inr ⟨c, hi, Host.Outcome.next.inj (h.symm.trans (hu s)), hu⟩

/-- Every arm of `exec` computes the same whatever the halt bit, the record and the schedule are. -/
theorem exec_withHostOf (h : exec i s = .next t) : HostBlind i s t := by
  cases i with
  | ret =>
    rcases sp_eq_zero_or s with h0 | h0
    · exact .of_raised (fun _ => exec_ret_empty h0) rfl h
    · exact .of_next (exec_ret_nonempty h0) (fun u => exec_ret_nonempty (s := s.withHostOf u) h0) h
  | call nnn =>
    rcases sp_eq_full_or s with hf | hr
    · exact .of_raised (fun _ => exec_call_full nnn hf) rfl h
    · exact .of_next (exec_call_room nnn hr) (fun u => exec_call_room (s := s.withHostOf u) nnn hr) h
  | drw x y n =>
    rcases Nat.lt_or_ge 0x1000 (ea s 0 + n.toNat) with hn | hn
    · exact .of_raised (fun _ => exec_drw_outside x y hn) rfl h
    · exact .of_next (exec_drw_inside x y hn) (fun u => exec_drw_inside (s := s.withHostOf u) x y hn) h
  | skp x =>
    rcases Nat.lt_or_ge 0xF (s.getV x).toNat with hk | hk
    · exact .of_raised (fun _ => exec_skp_noKey rfl hk) rfl h
    · exact .of_next (exec_skp_key rfl hk) (fun u => exec_skp_key (s := s.withHostOf u) rfl hk) h
  | sknp x =>
    rcases Nat.lt_or_ge 0xF (s.getV x).toNat with hk | hk
    · exact .of_raised (fun _ => exec_sknp_noKey rfl hk) rfl h
    · exact .of_next (exec_sknp_key rfl hk) (fun u => exec_sknp_key (s := s.withHostOf u) rfl hk) h
  | ldVxK x =>
    cases hk : lowestKey s.key with
    | none =>
      have h0 := lowestKey_none.mp hk
      exact .of_next (exec_ldVxK_waiting x h0) (fun u => exec_ldVxK_waiting (s := s.withHostOf u) x h0) h
    | some k => exact .of_next (exec_ldVxK_pressed x hk) (fun u => exec_ldVxK_pressed (s := s.withHostOf u) x hk) h
  | ldBVx x =>
    rcases Nat.lt_or_ge 0x1000 (ea s 0 + 3) with hn | hn
    · exact .of_raised (fun _ => exec_ldBVx_outside x hn) rfl h
    · exact .of_next (exec_ldBVx_inside x hn) (fun u => exec_ldBVx_inside (s := s.withHostOf u) x hn) h
  | stRegs x =>
    rcases Nat.lt_or_ge 0x1000 (ea s 0 + (x.val + 1)) with hn | hn
    · exact .of_raised (fun _ => exec_stRegs_outside hn) rfl h
    · exact .of_next (exec_stRegs_inside hn) (fun u => exec_stRegs_inside (s := s.withHostOf u) hn) h
  | ldRegs x =>
    rcases Nat.lt_or_ge 0x1000 (ea s 0 + (x.val + 1)) with hn | hn
    · exact .of_raised (fun _ => exec_ldRegs_outside hn) rfl h
    · refine .of_next (exec_ldRegs_inside hn) (fun u => (exec_ldRegs_inside (s := s.withHostOf u) hn).trans ?_) h
      rw [setVsFrom_map (f := (State.withHostOf · u)) fun _ _ _ => rfl]; rfl
  | _ => exact .of_next rfl (fun _ => rfl) h

/-- An instruction that halts a core which ran took the one condition it can raise. -/
theorem exec_halts (hr : s.halted = false) (h : exec i s = .next t) (ht : t.halted = true) :
    ∃ c : Raised, mayRaise i = some c.condition ∧ t = takeFatal c (some (encode i)) s := by
  obtain ⟨hs, -⟩ | ⟨c, hi, heq, -⟩ := exec_withHostOf h
  · have hrun : t.halted = s.halted := hs ▸ withHostOf_halted t s
    simp [hrun, hr] at ht
  · exact ⟨c, hi, heq⟩

theorem exec_withSchedule (ts : List Txn) (h : exec i s = .next t) :
    exec i (s.withSchedule ts) = .next (t.withSchedule ts) := by
  obtain ⟨hs, hu⟩ | ⟨c, -, rfl, hu⟩ := exec_withHostOf h
  · rw [← hs]
    exact hu (s.withSchedule ts)
  · exact hu (s.withSchedule ts)

theorem exec_answers (i : Instr) (s : State) : ∃ t, exec i s = .next t := by
  obtain ⟨r, hr⟩ := exec_concludes i s
  cases r with
  | ok t => exact ⟨t, hr⟩
  | error c => exact ⟨_, hr⟩

/-! ### Everything a `step` can do -/

/-- From `s` the `step` transaction goes to `t`, in the priority of 60 R215. -/
inductive StepCase (s t : State) : Prop where
  | halted (hh : s.halted = true) (ht : t = s)
  | fetchFails (c : Raised) (hr : s.halted = false) (hf : fetch s = .error c) (ht : t = takeFatal c none s)
  | rejects (w : Word) (e : DecodeReject) (hr : s.halted = false) (hf : fetch s = .ok w) (hd : decodeWord w = .error e)
      (ht : t = s.advance)
  | executes (w : Word) (i : Instr) (hr : s.halted = false) (hf : fetch s = .ok w) (hd : decodeWord w = .ok i)
      (ht : exec i s = .next t)

theorem stepTxn_answers (s : State) : ∃ t, stepTxn s = .next t ∧ StepCase s t := by
  cases hr : s.halted with
  | true => exact ⟨s, stepTxn_halted hr, .halted hr rfl⟩
  | false =>
    cases hf : fetch s with
    | error c => exact ⟨_, stepTxn_of_fetch_error hr hf, .fetchFails c hr hf rfl⟩
    | ok w =>
      cases hd : decodeWord w with
      | error e => exact ⟨_, stepTxn_of_reject hr hf hd, .rejects w e hr hf hd rfl⟩
      | ok i =>
        obtain ⟨t, ht⟩ := exec_answers i s
        exact ⟨t, (stepTxn_of_decode hr hf hd).trans ht, .executes w i hr hf hd ht⟩

theorem stepTxn_cases (h : stepTxn s = .next t) : StepCase s t := by
  obtain ⟨u, hu, hc⟩ := stepTxn_answers s
  cases hu.symm.trans h
  exact hc

theorem stepStatus_halted (h : s.halted = true) : stepStatus s = some (.halted s.fault) := if_pos h

theorem instrStatus_of_takeFatal {c : Raised} {op : Option Word} (he : exec i s = .next (takeFatal c op s)) :
    instrStatus i s = some (.fault (faultRecord c op s)) := by
  simp only [instrStatus, he, takeFatal_halted, takeFatal_fault]

/-- A condition that is raised is fatal (60 R210). -/
theorem Raised.condition_fatal (c : Raised) : c.condition.fatal = true := by
  cases c <;> rfl

/-- A `step` that halts a core which ran took a fatal condition: the fetch's, with no opcode, or that of the
instruction whose word was fetched (60 R212). -/
theorem stepTxn_halts (hr : s.halted = false) (h : stepTxn s = .next t) (ht : t.halted = true) :
    ∃ (c : Raised) (op : Option Word), t = takeFatal c op s ∧ stepStatus s = some (.fault (faultRecord c op s)) ∧
      ((fetch s = .error c ∧ op = none) ∨ ∃ w, fetch s = .ok w ∧ op = some w) := by
  cases stepTxn_cases h with
  | halted hh => simp [hh] at hr
  | fetchFails c _ hf htf => exact ⟨c, none, htf, stepStatus_of_fetch_error hr hf, .inl ⟨hf, rfl⟩⟩
  | rejects w e _ hf hd hta => simp [hta, hr] at ht
  | executes w i _ hf hd hx =>
    obtain ⟨c, -, rfl⟩ := exec_halts hr hx ht
    refine ⟨c, _, rfl, ?_, .inr ⟨w, hf, congrArg some (encode_of_decodeWord hd)⟩⟩
    rw [stepStatus_of_decode hr hf hd, instrStatus_of_takeFatal hx]

/-! ### tick, reset and load -/

theorem tickTxn_running (h : s.halted = false) :
    tickTxn s = (s.setDelay (countDown s.delay)).setSound (countDown s.sound) := by
  simp [tickTxn, h]

theorem tickTone_halted (h : s.halted = true) : tickTone s = false := by
  simp [tickTone, h]

theorem tickTone_running (h : s.halted = false) : tickTone s = decide (s.sound.toNat = 1) := by
  simp [tickTone, h, ← BitVec.toNat_inj, beq_eq_decide]

theorem countDown_toNat (b : Byte) : (countDown b).toNat = b.toNat - 1 := by
  unfold countDown
  split
  · next h => rw [h]; rfl
  · next h => bv_omega

theorem frame_tickTxn (h : s.halted = false) : Frame [] [.delay, .sound] noBytes s (tickTxn s) := by
  rw [tickTxn_running h]
  exact (frame_setDelay (by decide) _ _ s _).trans (frame_setSound (by decide) _ _ _ _)

theorem loadTxn_fits {bs : List Byte} (h : bs.length ≤ maxRom) (s : State) :
    loadTxn bs s = (resetTxn s).setMem ((resetTxn s).mem.writeAll 0x200 bs) :=
  if_neg (Nat.not_lt.mpr h)

/-! ### The schedule -/

theorem loadTxn_withSchedule (bs : List Byte) (s : State) (ts : List Txn) :
    loadTxn bs (s.withSchedule ts) = (loadTxn bs s).withSchedule ts := by
  rcases Nat.lt_or_ge maxRom bs.length with hl | hl
  · rw [loadTxn_tooLarge hl, loadTxn_tooLarge hl]
  · rw [loadTxn_fits hl, loadTxn_fits hl]; rfl

theorem tickTxn_withSchedule (s : State) (ts : List Txn) :
    tickTxn (s.withSchedule ts) = (tickTxn s).withSchedule ts := by
  cases hr : s.halted with
  | true => rw [tickTxn_halted hr]; exact tickTxn_halted hr
  | false => rw [tickTxn_running hr]; exact tickTxn_running hr

theorem stepTxn_withSchedule (ts : List Txn) (h : stepTxn s = .next t) :
    stepTxn (s.withSchedule ts) = .next (t.withSchedule ts) := by
  have hfetch : fetch (s.withSchedule ts) = fetch s := fetch_congr rfl rfl
  cases stepTxn_cases h with
  | halted hh ht => rw [ht]; exact stepTxn_halted hh
  | fetchFails c hr hf ht => rw [ht]; exact stepTxn_of_fetch_error hr (hfetch.trans hf)
  | rejects w e hr hf hd ht => rw [ht]; exact stepTxn_of_reject hr (hfetch.trans hf) hd
  | executes w i hr hf hd hx =>
    rw [stepTxn_of_decode (s := s.withSchedule ts) hr (hfetch.trans hf) hd]
    exact exec_withSchedule ts hx

/-- A transaction carries any schedule through. -/
theorem transact_withSchedule {τ : Txn} (ts : List Txn) (h : transact τ s = .next t) :
    transact τ (s.withSchedule ts) = .next (t.withSchedule ts) := by
  cases τ with
  | reset => cases h; rfl
  | load bs => cases h; exact congrArg Host.Outcome.next (loadTxn_withSchedule bs s ts)
  | step => exact stepTxn_withSchedule ts h
  | tick => cases h; exact congrArg Host.Outcome.next (tickTxn_withSchedule s ts)
  | setKeys k => cases h; rfl
  | drawAck => cases h; rfl

/-- A transaction leaves the schedule as it is, since it carries its own through. -/
theorem transact_schedule {τ : Txn} (h : transact τ s = .next t) : t.schedule = s.schedule := by
  have heq : t = t.withSchedule s.schedule := Host.Outcome.next.inj (h.symm.trans (transact_withSchedule s.schedule h))
  rw [heq, withSchedule_schedule]

theorem transact_answers (τ : Txn) (s : State) : ∃ t, transact τ s = .next t := by
  cases τ with
  | step =>
    obtain ⟨t, ht, -⟩ := stepTxn_answers s
    exact ⟨t, ht⟩
  | _ => exact ⟨_, rfl⟩

/-- A run begins with its first transaction. -/
theorem runTxns_cons {τ : Txn} {τs : List Txn} (h : transact τ s = .next t) : runTxns (τ :: τs) s = runTxns τs t := by
  simp only [runTxns, h]

/-- The machine's run begins with the transaction scheduled first, which leaves the rest scheduled. -/
theorem run_scheduled {τ : Txn} {τs : List Txn} (n : Nat) (h : transact τ s = .next t) :
    Host.Core.run core (n + 1) (s.withSchedule (τ :: τs)) = Host.Core.run core n (t.withSchedule τs) := by
  have hstep : core.step (s.withSchedule (τ :: τs)) = .next (t.withSchedule τs) :=
    transact_withSchedule (s := s) τs h
  simp only [Host.Core.run, hstep]

end Sys2Proof.Machine

namespace Sys2Proof

open Machine

/-- Settles O11: `step` and `tick` test the halt bit first, `set_keys` and `draw_ack` do not test it, and `reset` and a
`load` that fits start from the reset state. -/
theorem haltedCoreExecutesNothing : Obligations.HaltedCoreExecutesNothing := by
  intro s hh
  refine ⟨⟨stepTxn_halted hh, congrArg _ (stepStatus_halted hh)⟩,
    ⟨congrArg _ (tickTxn_halted hh), congrArg _ (tickTone_halted hh)⟩, fun k => ⟨_, rfl, rfl, frame_setKeysTxn k s⟩,
    ⟨_, rfl, rfl, frame_drawAckTxn s⟩, ⟨_, rfl, rfl, rfl⟩, fun bs hl => ?_⟩
  exact ⟨_, congrArg Host.Outcome.next (loadTxn_fits hl s), rfl, rfl⟩

/-- Settles O12: an instruction ends in `conclude`, and a machine's step is the transaction scheduled next. -/
theorem everyTransactionAnswers : Obligations.EveryTransactionAnswers :=
  ⟨exec_answers, transact_answers, fun s => transact_answers (nextTxn s).1 (nextTxn s).2⟩

/-- Settles O41, by the tick of a core that is not halted: subtraction of naturals stops at 0 as `countDown` does. -/
theorem tickCountsDown : Obligations.TickCountsDown := by
  refine fun s => ⟨fun hr => ⟨⟨_, rfl, ?_, ?_, frame_tickTxn hr⟩, ?_, ?_⟩,
    fun hh => ⟨congrArg _ (tickTxn_halted hh), congrArg _ (tickTone_halted hh)⟩, fun τ b h => ?_⟩
  · rw [tickTxn_running hr]; exact countDown_toNat s.delay
  · rw [tickTxn_running hr]; exact countDown_toNat s.sound
  · simp [txnOutput, tickTone_running hr]
  · simp [txnOutput, tickTone_running hr]
  · cases τ with
    | tick => rfl
    | _ => cases h

/-- Settles O42, by `stepTxn_halts`. -/
theorem fatalConditionsArePrecise : Obligations.FatalConditionsArePrecise := by
  intro s t hr h ht
  obtain ⟨c, op, rfl, hstatus, hop⟩ := stepTxn_halts hr h ht
  refine ⟨faultRecord c op s, rfl, rfl, c.condition_fatal, fun w hw => ?_, fun d hd => ?_, congrArg _ hstatus⟩
  · obtain ⟨hf, -⟩ | ⟨w', hf, rfl⟩ := hop
    · cases hf.symm.trans hw
    · cases hf.symm.trans hw; rfl
  · obtain ⟨-, rfl⟩ | ⟨w', hf, -⟩ := hop
    · rfl
    · cases hf.symm.trans hd

/-- Settles O43, by `exec_halts` and the two conditions of the fetch. -/
theorem whichConditionAnInstructionRaises : Obligations.WhichConditionAnInstructionRaises := by
  refine ⟨fun i s t hr h ht => ?_, fun s c hr hf => ⟨stepTxn_of_fetch_error hr hf, ?_⟩⟩
  · obtain ⟨c, hi, rfl⟩ := exec_halts hr h ht
    exact ⟨_, takeFatal_fault s c _, hi⟩
  · obtain ⟨rfl, -⟩ | ⟨rfl, -⟩ := fetch_error hf
    · exact .head _
    · exact .tail _ (.head _)

/-- Settles O54, by induction on the list: the first transaction leaves the rest scheduled. -/
theorem scheduleGivesEveryInterleaving : Obligations.ScheduleGivesEveryInterleaving := by
  intro τs
  induction τs with
  | nil =>
    intro s t hs h
    have hs' : s.withSchedule [] = s := by rw [← hs]; rfl
    exact (congrArg Host.Outcome.next hs').trans h
  | cons τ τs ih =>
    intro s t hs h
    obtain ⟨u, hu⟩ := transact_answers τ s
    rw [runTxns_cons hu] at h
    exact (run_scheduled τs.length hu).trans (ih u t ((transact_schedule hu).trans hs) h)

end Sys2Proof
end

section
/-! PROOFS. Reset, load and the end states (70 R250, R253, R254, R264): a load that fits is a reset and one store into it,
and a `step` whose instruction answers the state itself repeats. -/

namespace Sys2Proof.Machine

variable {i : Instr} {s : State} {bs : List Byte}

/-! ### load (70 R253, R254) -/

theorem loadResult_fits (h : bs.length ≤ maxRom) : loadResult bs = .ok := if_neg (Nat.not_lt.mpr h)

theorem loadResult_tooLarge (h : maxRom < bs.length) : loadResult bs = .romTooLarge bs.length := if_pos h

/-- A ROM that fits ends inside memory. -/
theorem rom_inside (h : bs.length ≤ maxRom) : 0x200 + bs.length ≤ memSize :=
  Nat.add_le_add_left h 0x200

/-! ### A step that repeats (70 R264) -/

/-- A jump to its own address answers the state itself. -/
theorem exec_jp_self {nnn : Addr12} (h : addrOperand nnn = s.pc) : exec (.jp nnn) s = .next s := by
  calc exec (.jp nnn) s
    _ = .next (s.setPc (addrOperand nnn)) := rfl
    _ = .next s := by rw [h]; rfl

/-- The `step` transaction of a core that runs, by the instruction whose word stands at pc. -/
theorem stepTxn_of_encoded (hr : s.halted = false) (hf : fetch s = .ok (encode i)) : stepTxn s = exec i s :=
  stepTxn_of_decode hr hf (decodeWord_encode i)

theorem stepStatus_of_encoded (hr : s.halted = false) (hf : fetch s = .ok (encode i)) :
    stepStatus s = instrStatus i s :=
  stepStatus_of_decode hr hf (decodeWord_encode i)

/-- Where the instruction at pc answers the state itself, so does the step, with the instruction's status. -/
theorem step_repeats {st : StepStatus} (hr : s.halted = false) (hf : fetch s = .ok (encode i))
    (he : exec i s = .next s) (hst : instrStatus i s = some st) :
    transact .step s = .next s ∧ txnOutput .step s = .status (some st) :=
  ⟨(stepTxn_of_encoded hr hf).trans he, congrArg Output.status ((stepStatus_of_encoded hr hf).trans hst)⟩

end Sys2Proof.Machine

namespace Sys2Proof

open Machine

/-- Settles O51: what a load that fits stores reads back from the reset memory (`Memory.read_writeAll`), and its frame is
the store's (`frame_setMem`). -/
theorem loadCopiesTheRom : Obligations.LoadCopiesTheRom := by
  refine fun bs s => ⟨fun hfits => ?_, fun hlarge => ?_⟩
  · have hin : 0x200 + bs.length ≤ memSize := rom_inside hfits
    have hwf : (resetTxn s).mem.wf = true := (resetTxn_inv s).memory
    refine ⟨congrArg Output.load (loadResult_fits hfits), resetTxn s, _, rfl,
      congrArg Host.Outcome.next (loadTxn_fits hfits s), Memory.wf_writeAll hwf hin, frame_setMem hwf hin [] [],
      fun j hj => ?_⟩
    rw [setMem_mem, Memory.read_writeAll hwf hin, if_pos (by omega), Nat.add_sub_cancel_left]
  · exact ⟨congrArg Output.load (loadResult_tooLarge hlarge), congrArg Host.Outcome.next (loadTxn_tooLarge hlarge s)⟩

/-- Settles O53, by `step_repeats`: the jump to its own address sets pc to what it is, and FX0A with no key pressed
writes nothing. -/
theorem idleAndWaitingRepeat : Obligations.IdleAndWaitingRepeat := by
  refine fun s => ⟨fun ⟨hr, nnn, hf, hpc⟩ => ?_, fun ⟨hr, hkey, x, hf⟩ => ?_⟩
  · have he := exec_jp_self hpc
    exact step_repeats hr hf he (instrStatus_of_next he hr)
  · obtain ⟨he, hst⟩ := (waitForKey x s hr).1 fun j _ => by simp [hkey]
    exact step_repeats hr hf he hst

/-- Settles O49: `reset` leaves the reset state in everything but the model's own two fields, which no clause names, and
the reset state holds these values (`resetStateValues`). -/
theorem resetLeaves : Obligations.ResetLeaves := fun s => ⟨resetTxn s, rfl, resetStateValues⟩

end Sys2Proof
end
